-- ==== Sys2Proof/Word.lean ====
section
/-! DEFINITION. The widths of the machine's values (00_scope.md R6, R8): everything is unsigned. -/

namespace Sys2Proof

/-- A byte: a general register, a timer, a memory cell, an immediate NN (R15, R23, R27, R56). -/
abbrev Byte := BitVec 8

/-- A 16-bit value: PC, I, a stack entry, an instruction word (R18, R19, R21, R60). -/
abbrev Word := BitVec 16

/-- A 12-bit value: the address field NNN and the host's memory address (R35, R56). -/
abbrev Addr := BitVec 12

/-- A 4-bit field: d1 to d4, a register index, a row count (R56). -/
abbrev Nibble := BitVec 4

end Sys2Proof
end

