-- ==== Sys2Proof/Config.lean ====
section
/-! DEFINITION. The fixed parameters of the hardware (00_scope.md R6) and the free value of the random source. -/

namespace Sys2Proof.Config

/-- `MEM_SIZE`: the number of byte addresses (R6, R41). -/
abbrev memSize : Nat := 4096

/-- `START_ADDR`: where programs are loaded and where PC starts (R6, R120). -/
abbrev startAddr : Word := 0x200#16

/-- The size of the font table, 16 glyphs of 5 bytes, at addresses 0 to 79 (R6, R42). -/
abbrev fontSize : Nat := 80

/-- The greatest length of a program image: 0x200 to 0xFFF (R35, R121). -/
abbrev maxImage : Nat := 3584

/-- The random byte of the draw with this number, when the environment has not fixed one: any byte, with
no law (R33, R84, D17). It has no definition that anything could compute or reason about; see log 1. -/
opaque freeRandom : Nat → Byte

end Sys2Proof.Config
end

