-- ==== Sys2Proof/Syntax.lean ====
section
/-! DEFINITION. The instructions: one constructor per row of the dispatch table (30_encoding.md R58), with the
operands its format carries (R57). Register operands are 4-bit fields, so none is out of range (R15). -/

namespace Sys2Proof

inductive Instr where
  /-- 0000, NOP (R63) -/
  | nop
  /-- 00E0, CLS (R92) -/
  | cls
  /-- 00EE, RET (R64) -/
  | ret
  /-- 1NNN, JP NNN (R65) -/
  | jp (nnn : Addr)
  /-- 2NNN, CALL NNN (R66) -/
  | call (nnn : Addr)
  /-- 3XNN, SE Vx, NN (R67) -/
  | seImm (x : Nibble) (nn : Byte)
  /-- 4XNN, SNE Vx, NN (R68) -/
  | sneImm (x : Nibble) (nn : Byte)
  /-- 5XY0, SE Vx, Vy (R69) -/
  | seReg (x y : Nibble)
  /-- 6XNN, LD Vx, NN (R73) -/
  | ldImm (x : Nibble) (nn : Byte)
  /-- 7XNN, ADD Vx, NN (R74) -/
  | addImm (x : Nibble) (nn : Byte)
  /-- 8XY0, LD Vx, Vy (R75) -/
  | ldReg (x y : Nibble)
  /-- 8XY1, OR Vx, Vy (R76) -/
  | orReg (x y : Nibble)
  /-- 8XY2, AND Vx, Vy (R77) -/
  | andReg (x y : Nibble)
  /-- 8XY3, XOR Vx, Vy (R78) -/
  | xorReg (x y : Nibble)
  /-- 8XY4, ADD Vx, Vy (R79) -/
  | addReg (x y : Nibble)
  /-- 8XY5, SUB Vx, Vy (R80) -/
  | subReg (x y : Nibble)
  /-- 8XY6, SHR Vx, Vy: Y is encoded and not read (R81) -/
  | shr (x y : Nibble)
  /-- 8XY7, SUBN Vx, Vy (R82) -/
  | subn (x y : Nibble)
  /-- 8XYE, SHL Vx, Vy: Y is encoded and not read (R83) -/
  | shl (x y : Nibble)
  /-- 9XY0, SNE Vx, Vy (R70) -/
  | sneReg (x y : Nibble)
  /-- ANNN, LD I, NNN (R86) -/
  | ldI (nnn : Addr)
  /-- BNNN, JP V0, NNN (R71) -/
  | jpV0 (nnn : Addr)
  /-- CXNN, RND Vx, NN (R84) -/
  | rnd (x : Nibble) (nn : Byte)
  /-- DXYN, DRW Vx, Vy, N (R93) -/
  | drw (x y n : Nibble)
  /-- EX9E, SKP Vx (R96) -/
  | skp (x : Nibble)
  /-- EXA1, SKNP Vx (R97) -/
  | sknp (x : Nibble)
  /-- FX07, LD Vx, DT (R98) -/
  | ldVxDt (x : Nibble)
  /-- FX0A, LD Vx, K (R99) -/
  | ldVxK (x : Nibble)
  /-- FX15, LD DT, Vx (R100) -/
  | ldDtVx (x : Nibble)
  /-- FX18, LD ST, Vx (R101) -/
  | ldStVx (x : Nibble)
  /-- FX1E, ADD I, Vx (R87) -/
  | addI (x : Nibble)
  /-- FX29, LD F, Vx (R88) -/
  | ldF (x : Nibble)
  /-- FX33, LD B, Vx (R89) -/
  | ldB (x : Nibble)
  /-- FX55, LD [I], Vx (R90) -/
  | storeRegs (x : Nibble)
  /-- FX65, LD Vx, [I] (R91) -/
  | loadRegs (x : Nibble)
  deriving DecidableEq, Repr

/-- The class number of an instruction's row in the dispatch table (R58, D2). -/
def Instr.rowClass : Instr → Nat
  | .nop => 1
  | .cls => 2
  | .ret => 3
  | .jp _ => 4
  | .call _ => 5
  | .seImm _ _ => 6
  | .sneImm _ _ => 7
  | .seReg _ _ => 8
  | .ldImm _ _ => 9
  | .addImm _ _ => 10
  | .ldReg _ _ => 11
  | .orReg _ _ => 12
  | .andReg _ _ => 13
  | .xorReg _ _ => 14
  | .addReg _ _ => 15
  | .subReg _ _ => 16
  | .shr _ _ => 17
  | .subn _ _ => 18
  | .shl _ _ => 19
  | .sneReg _ _ => 20
  | .ldI _ => 21
  | .jpV0 _ => 22
  | .rnd _ _ => 23
  | .drw _ _ _ => 24
  | .skp _ => 25
  | .sknp _ => 26
  | .ldVxDt _ => 27
  | .ldVxK _ => 28
  | .ldDtVx _ => 29
  | .ldStVx _ => 30
  | .addI _ => 31
  | .ldF _ => 32
  | .ldB _ => 33
  | .storeRegs _ => 34
  | .loadRegs _ => 35

end Sys2Proof
end

