-- ==== Sys2Proof/WellFormed.lean ====
section
/-! DEFINITION. What is well formed: an instruction word (it matches a row of the dispatch table, 30_encoding.md
R58), and a program image (it fits the program area, 10_state.md R35). A term of `Instr` needs no check of its
own: its field types admit exactly the values of the spec's fields (R15, R57), and every one of them is an instruction. -/

namespace Sys2Proof

/-- One row of the dispatch table: a word `w` selects it when `w & mask = pattern` (R58). -/
structure Row where
  cls     : Nat
  pattern : Word
  mask    : Word
  deriving DecidableEq, Repr

/-- A word matches a row when `w & mask = match` (R58). -/
def Row.selects (r : Row) (w : Word) : Bool := w &&& r.mask == r.pattern

/-- Rows of families 0 to 2 (R58). -/
def rowsSystem : List Row :=
  [⟨1, 0x0000#16, 0xFFFF#16⟩,
   ⟨2, 0x00E0#16, 0xFFFF#16⟩,
   ⟨3, 0x00EE#16, 0xFFFF#16⟩,
   ⟨4, 0x1000#16, 0xF000#16⟩,
   ⟨5, 0x2000#16, 0xF000#16⟩]

/-- Rows of families 3 to 7 (R58). -/
def rowsImmediate : List Row :=
  [⟨6, 0x3000#16, 0xF000#16⟩,
   ⟨7, 0x4000#16, 0xF000#16⟩,
   ⟨8, 0x5000#16, 0xF00F#16⟩,
   ⟨9, 0x6000#16, 0xF000#16⟩,
   ⟨10, 0x7000#16, 0xF000#16⟩]

/-- Rows of family 8 (R58). -/
def rowsAlu : List Row :=
  [⟨11, 0x8000#16, 0xF00F#16⟩,
   ⟨12, 0x8001#16, 0xF00F#16⟩,
   ⟨13, 0x8002#16, 0xF00F#16⟩,
   ⟨14, 0x8003#16, 0xF00F#16⟩,
   ⟨15, 0x8004#16, 0xF00F#16⟩,
   ⟨16, 0x8005#16, 0xF00F#16⟩,
   ⟨17, 0x8006#16, 0xF00F#16⟩,
   ⟨18, 0x8007#16, 0xF00F#16⟩,
   ⟨19, 0x800E#16, 0xF00F#16⟩]

/-- Rows of families 9 to D (R58). -/
def rowsMiddle : List Row :=
  [⟨20, 0x9000#16, 0xF00F#16⟩,
   ⟨21, 0xA000#16, 0xF000#16⟩,
   ⟨22, 0xB000#16, 0xF000#16⟩,
   ⟨23, 0xC000#16, 0xF000#16⟩,
   ⟨24, 0xD000#16, 0xF000#16⟩]

/-- Rows of family E (R58). -/
def rowsKey : List Row :=
  [⟨25, 0xE09E#16, 0xF0FF#16⟩,
   ⟨26, 0xE0A1#16, 0xF0FF#16⟩]

/-- Rows of family F (R58). -/
def rowsMisc : List Row :=
  [⟨27, 0xF007#16, 0xF0FF#16⟩,
   ⟨28, 0xF00A#16, 0xF0FF#16⟩,
   ⟨29, 0xF015#16, 0xF0FF#16⟩,
   ⟨30, 0xF018#16, 0xF0FF#16⟩,
   ⟨31, 0xF01E#16, 0xF0FF#16⟩,
   ⟨32, 0xF029#16, 0xF0FF#16⟩,
   ⟨33, 0xF033#16, 0xF0FF#16⟩,
   ⟨34, 0xF055#16, 0xF0FF#16⟩,
   ⟨35, 0xF065#16, 0xF0FF#16⟩]

/-- The complete dispatch table (R58): the decoder does not read it, it is what the decoder is held against. -/
def dispatchTable : List Row :=
  rowsSystem ++ rowsImmediate ++ rowsAlu ++ rowsMiddle ++ rowsKey ++ rowsMisc

/-- A word is an instruction word when some row selects it; every other word is unrecognized (R58, R59). -/
def wordWellFormed (w : Word) : Bool := dispatchTable.any (·.selects w)

/-- A program image fits the program area 0x200 to 0xFFF (R35, R121). -/
def imageWellFormed (bytes : List Byte) : Bool := decide (bytes.length ≤ Config.maxImage)

end Sys2Proof
end

