-- ==== Sys2Proof/Decode.lean ====
section
/-! DEFINITION. The decoder, total on every word and on every list of bytes (30_encoding.md R56, R58, R59), and
after it the encoder, written from the layouts of R57. -/

namespace Sys2Proof

/-- Why bytes give no instruction. -/
inductive DecodeError where
  /-- The word matches no row of the dispatch table (R59). The step that fetched it raises UNRECOGNIZED. -/
  | unrecognized (w : Word)
  /-- Fewer than the two bytes of an instruction (R60). Never met by a step, whose fetch reads two bytes. -/
  | truncated
  deriving DecidableEq, Repr

/-! ### The fields of a word (R56) -/

/-- `d1`, the instruction family. -/
def fieldD1 (w : Word) : Nibble := w.extractLsb' 12 4
/-- `X` = `w[11:8]`. -/
def fieldX (w : Word) : Nibble := w.extractLsb' 8 4
/-- `Y` = `w[7:4]`. -/
def fieldY (w : Word) : Nibble := w.extractLsb' 4 4
/-- `N` = `w[3:0]`. -/
def fieldN (w : Word) : Nibble := w.extractLsb' 0 4
/-- `NN` = `w[7:0]`. -/
def fieldNN (w : Word) : Byte := w.extractLsb' 0 8
/-- `NNN` = `w[11:0]`. -/
def fieldNNN (w : Word) : Addr := w.extractLsb' 0 12

/-! ### The decoder, family by family (R58) -/

/-- Family 0: the three fixed words; every other 0NNN is unrecognized. -/
def decodeSystem (w : Word) : Except DecodeError Instr :=
  if w = 0x0000#16 then .ok .nop
  else if w = 0x00E0#16 then .ok .cls
  else if w = 0x00EE#16 then .ok .ret
  else .error (.unrecognized w)

/-- Family 8: the sub-operation is `d4`. -/
def decodeAlu (w : Word) : Except DecodeError Instr :=
  match (fieldN w).toNat with
  | 0x0 => .ok (.ldReg (fieldX w) (fieldY w))
  | 0x1 => .ok (.orReg (fieldX w) (fieldY w))
  | 0x2 => .ok (.andReg (fieldX w) (fieldY w))
  | 0x3 => .ok (.xorReg (fieldX w) (fieldY w))
  | 0x4 => .ok (.addReg (fieldX w) (fieldY w))
  | 0x5 => .ok (.subReg (fieldX w) (fieldY w))
  | 0x6 => .ok (.shr (fieldX w) (fieldY w))
  | 0x7 => .ok (.subn (fieldX w) (fieldY w))
  | 0xE => .ok (.shl (fieldX w) (fieldY w))
  | _ => .error (.unrecognized w)

/-- Family E: the sub-operation is the low byte. -/
def decodeKey (w : Word) : Except DecodeError Instr :=
  match (fieldNN w).toNat with
  | 0x9E => .ok (.skp (fieldX w))
  | 0xA1 => .ok (.sknp (fieldX w))
  | _ => .error (.unrecognized w)

/-- Family F: the sub-operation is the low byte. -/
def decodeMisc (w : Word) : Except DecodeError Instr :=
  match (fieldNN w).toNat with
  | 0x07 => .ok (.ldVxDt (fieldX w))
  | 0x0A => .ok (.ldVxK (fieldX w))
  | 0x15 => .ok (.ldDtVx (fieldX w))
  | 0x18 => .ok (.ldStVx (fieldX w))
  | 0x1E => .ok (.addI (fieldX w))
  | 0x29 => .ok (.ldF (fieldX w))
  | 0x33 => .ok (.ldB (fieldX w))
  | 0x55 => .ok (.storeRegs (fieldX w))
  | 0x65 => .ok (.loadRegs (fieldX w))
  | _ => .error (.unrecognized w)

/-- `DISPATCH(w)` (R54, R58): the family `d1` first, then the family's own fields. -/
def decode (w : Word) : Except DecodeError Instr :=
  match (fieldD1 w).toNat with
  | 0x0 => decodeSystem w
  | 0x1 => .ok (.jp (fieldNNN w))
  | 0x2 => .ok (.call (fieldNNN w))
  | 0x3 => .ok (.seImm (fieldX w) (fieldNN w))
  | 0x4 => .ok (.sneImm (fieldX w) (fieldNN w))
  | 0x5 => if fieldN w = 0#4 then .ok (.seReg (fieldX w) (fieldY w)) else .error (.unrecognized w)
  | 0x6 => .ok (.ldImm (fieldX w) (fieldNN w))
  | 0x7 => .ok (.addImm (fieldX w) (fieldNN w))
  | 0x8 => decodeAlu w
  | 0x9 => if fieldN w = 0#4 then .ok (.sneReg (fieldX w) (fieldY w)) else .error (.unrecognized w)
  | 0xA => .ok (.ldI (fieldNNN w))
  | 0xB => .ok (.jpV0 (fieldNNN w))
  | 0xC => .ok (.rnd (fieldX w) (fieldNN w))
  | 0xD => .ok (.drw (fieldX w) (fieldY w) (fieldN w))
  | 0xE => decodeKey w
  | 0xF => decodeMisc w
  | _ => .error (.unrecognized w)

/-- Two bytes as the fetch composes them: the first is the high byte (R45, R55). -/
def wordOfBytes (hi lo : Byte) : Word := hi ++ lo

/-- The first instruction of a byte sequence and the bytes after it: always two bytes (R60). -/
def decodeBytes : List Byte → Except DecodeError (Instr × List Byte)
  | hi :: lo :: rest =>
    match decode (wordOfBytes hi lo) with
    | .ok i => .ok (i, rest)
    | .error e => .error e
  | _ => .error .truncated

/-! ### The encoder (the layouts of R57) -/

/-- `ADDR`: d1, NNN. -/
def packAddr (d1 : Nibble) (nnn : Addr) : Word := d1 ++ nnn
/-- `REG_IMM`: d1, X, NN; `REG_OP` is the same layout with NN a sub-operation. -/
def packRegImm (d1 x : Nibble) (nn : Byte) : Word := (d1 ++ x : BitVec 8) ++ nn
/-- `REG_REG` and `DRAW`: d1, X, Y, d4. -/
def packRegReg (d1 x y n : Nibble) : Word := (d1 ++ x : BitVec 8) ++ (y ++ n : BitVec 8)

/-- The word of an instruction. -/
def encode : Instr → Word
  | .nop => 0x0000#16
  | .cls => 0x00E0#16
  | .ret => 0x00EE#16
  | .jp nnn => packAddr 0x1#4 nnn
  | .call nnn => packAddr 0x2#4 nnn
  | .seImm x nn => packRegImm 0x3#4 x nn
  | .sneImm x nn => packRegImm 0x4#4 x nn
  | .seReg x y => packRegReg 0x5#4 x y 0x0#4
  | .ldImm x nn => packRegImm 0x6#4 x nn
  | .addImm x nn => packRegImm 0x7#4 x nn
  | .ldReg x y => packRegReg 0x8#4 x y 0x0#4
  | .orReg x y => packRegReg 0x8#4 x y 0x1#4
  | .andReg x y => packRegReg 0x8#4 x y 0x2#4
  | .xorReg x y => packRegReg 0x8#4 x y 0x3#4
  | .addReg x y => packRegReg 0x8#4 x y 0x4#4
  | .subReg x y => packRegReg 0x8#4 x y 0x5#4
  | .shr x y => packRegReg 0x8#4 x y 0x6#4
  | .subn x y => packRegReg 0x8#4 x y 0x7#4
  | .shl x y => packRegReg 0x8#4 x y 0xE#4
  | .sneReg x y => packRegReg 0x9#4 x y 0x0#4
  | .ldI nnn => packAddr 0xA#4 nnn
  | .jpV0 nnn => packAddr 0xB#4 nnn
  | .rnd x nn => packRegImm 0xC#4 x nn
  | .drw x y n => packRegReg 0xD#4 x y n
  | .skp x => packRegImm 0xE#4 x 0x9E#8
  | .sknp x => packRegImm 0xE#4 x 0xA1#8
  | .ldVxDt x => packRegImm 0xF#4 x 0x07#8
  | .ldVxK x => packRegImm 0xF#4 x 0x0A#8
  | .ldDtVx x => packRegImm 0xF#4 x 0x15#8
  | .ldStVx x => packRegImm 0xF#4 x 0x18#8
  | .addI x => packRegImm 0xF#4 x 0x1E#8
  | .ldF x => packRegImm 0xF#4 x 0x29#8
  | .ldB x => packRegImm 0xF#4 x 0x33#8
  | .storeRegs x => packRegImm 0xF#4 x 0x55#8
  | .loadRegs x => packRegImm 0xF#4 x 0x65#8

/-- The high byte of a word, stored at the lower address (R45). -/
def highByte (w : Word) : Byte := w.extractLsb' 8 8
/-- The low byte of a word, stored at the higher address (R45). -/
def lowByte (w : Word) : Byte := w.extractLsb' 0 8

/-- The 16-bit word that the first `nbits` bits of `w` stand for; the bits above `nbits` are 0. -/
def tableWord (nbits w : Nat) : Word := BitVec.ofNat 16 (w % 2 ^ nbits)

/-- What the decoder reads from a word numbered as spec/opcode_table.json numbers it: the word is laid out
high byte first (R45) and handed to the decoder. -/
def decodeTableWord (nbits w : Nat) : Option Instr :=
  match decodeBytes [highByte (tableWord nbits w), lowByte (tableWord nbits w)] with
  | .ok (i, _) => some i
  | .error _ => none

end Sys2Proof
end

