-- ==== Sys2Proof/Machine/State.lean ====
section
/-! DEFINITION. The machine's state as plain data (10_state.md R15 to R30), the reasons a step could stop, and the
state right after reset (70_reset_and_hazards.md R119). -/

namespace Sys2Proof.Machine

/-- The spec's fault causes (60_exceptions.md R103). A fault is no outcome of a step here: its entry is described
by the spec (R104), so the step answers a NEXT state in which the fault latch holds the cause, and the core is
halted from then on (R106). No step and no meaning answers `Host.Outcome.fault`; see log 3. -/
inductive Fault where
  /-- Raised by the decode of a word that matches no row (R59). Safe: the spec's own fault. -/
  | unrecognized
  /-- Raised by the fetch when `PC + 1 >= 4096` (R55). Safe: the spec's own fault. -/
  | fetchOob
  /-- Raised by DXYN, FX33, FX55, FX65 for an access address of 4096 or more (R43). Safe: the spec's own fault. -/
  | memOob
  /-- Raised by 2NNN when `SP = 16` (R66). Safe: the spec's own fault. -/
  | stackOverflow
  /-- Raised by 00EE when `SP = 0` (R64). Safe: the spec's own fault. -/
  | stackUnderflow
  /-- Raised by EX9E and EXA1 when `V[X] > 15` (R96, R97). Safe: the spec's own fault. -/
  | keyIndex
  /-- Raised by FX29 when `V[X] > 15` (R88). Safe: the spec's own fault. -/
  | fontDigit
  deriving DecidableEq, Repr

/-- Why an instruction has no meaning. -/
inductive Refusal where
  /-- Raised by an arm of `exec` whose instruction is not modelled yet; no arm is. Safe: nothing runs. -/
  | notModelled (mnemonic : String)
  deriving DecidableEq, Repr

/-- The fault latch (R25): read-only to programs and host, written by fault entry and by reset. -/
structure FaultLatch where
  /-- `FAULTED`: the core status is `HALTED_FAULT` when set, `READY` when clear (R26). -/
  faulted : Bool
  /-- `FAULT_CAUSE`, 3 bits: a code of R103, 0 for none. -/
  cause   : BitVec 3
  /-- `FAULT_PC`: the value of PC at the fetch of the faulting step. -/
  pc      : Word
  /-- `FAULT_WORD`: the fetched word, 0 when the fetch itself faulted. -/
  word    : Word
  /-- `FAULT_INFO`: the offending address, stack pointer, key index or digit. -/
  info    : Word
  deriving DecidableEq, Repr

/-- The latch with nothing latched (R25, R119). -/
def FaultLatch.clear : FaultLatch := ⟨false, 0#3, 0#16, 0#16, 0#16⟩

/-- The transactions on the core's boundary that change state (10_state.md R32 to R36, R39). -/
inductive Transaction where
  /-- `Step`, the document's `tick` (R32). -/
  | step
  /-- `TimerTick`, the document's `tick_timers` (R34). -/
  | timerTick
  /-- `Reset` (R39). -/
  | reset
  /-- `HostWriteMem(a, b)` (R35). -/
  | hostWriteMem (a : Addr) (b : Byte)
  /-- `HostSetKeys(k16)` (R36). -/
  | hostSetKeys (k16 : BitVec 16)
  deriving DecidableEq, Repr

structure State where
  /-- `V[0..15]` (R15); `V[15]` is VF (R16). -/
  v        : Vector Byte 16
  /-- The address register `I` (R18). -/
  i        : Word
  /-- The program counter (R19): between steps, the address of the next instruction. -/
  pc       : Word
  /-- `STACK[0..15]` (R21). -/
  stack    : Vector Word 16
  /-- `SP`, the number of occupied stack entries, 0 to 16 (R22). -/
  sp       : Fin 17
  /-- The delay timer `DT` (R23). -/
  dt       : Byte
  /-- The sound timer `ST` (R24). -/
  st       : Byte
  /-- The fault latch (R25, R26). -/
  latch    : FaultLatch
  /-- The parameter FONT, which Reset installs at 0x000 to 0x04F (R6, R27, D11); nothing writes it. -/
  font     : Vector Byte 80
  /-- `MEM[0..4095]` (R27): the bytes that differ from the reset contents, addresses rising. -/
  mem      : List Host.Cell
  /-- `DISP`: the pixel in column x, row y is bit `x + 64*y` (R28). -/
  disp     : BitVec 2048
  /-- `KEY[k]` is bit k, set while key k is pressed (R29). -/
  keys     : BitVec 16
  /-- The model's own: the random bytes the environment has fixed for the coming draws (R33; log 1). -/
  rndIn    : List Byte
  /-- The model's own: how many draws have been made (R33; log 1). -/
  rndCount : Nat
  /-- The model's own: the host's transactions that come before any unscheduled Step, oldest first (R40; log 5). -/
  agenda   : List Transaction
  deriving DecidableEq, Repr

/-- The state right after reset, which is the power-on state (R31, R119, R120). -/
def State.reset : State where
  v        := Vector.replicate 16 0#8
  i        := 0#16
  pc       := Config.startAddr
  stack    := Vector.replicate 16 0#16
  sp       := 0
  dt       := 0#8
  st       := 0#8
  latch    := FaultLatch.clear
  font     := defaultFont
  mem      := []
  disp     := 0#2048
  keys     := 0#16
  rndIn    := []
  rndCount := 0
  agenda   := []

end Sys2Proof.Machine
end

