-- ==== Sys2Proof/Machine/Memory.lean ====
section
/-! DEFINITION. The memory array (20_memory.md R41 to R50) as a list of (address, byte) pairs in one canonical form:
addresses strictly rising and below 4096, and no entry equal to what an unlisted address reads as. -/

namespace Sys2Proof.Machine

/-- What an address that is not listed reads as: the reset contents, FONT at 0 to 79 and 0 elsewhere (R27, R42, R119). -/
def Memory.background (font : Vector Byte 80) (a : Nat) : Byte :=
  if h : a < 80 then font[a] else 0#8

/-- The byte listed at an address, if one is. -/
def Memory.listed (a : Nat) : List Host.Cell → Option Byte
  | [] => none
  | c :: m => if c.1 = a then some c.2 else Memory.listed a m

/-- `MEM[a]` (R9, R10). The callers check `a < 4096` first. -/
def Memory.read (font : Vector Byte 80) (m : List Host.Cell) (a : Nat) : Byte :=
  (Memory.listed a m).getD (Memory.background font a)

/-- The list without an entry for the address. -/
def Memory.erase (a : Nat) (m : List Host.Cell) : List Host.Cell :=
  m.filter (fun c => c.1 != a)

/-- A cell put in its place in the rising order. -/
def Memory.place (c : Host.Cell) : List Host.Cell → List Host.Cell
  | [] => [c]
  | d :: m => if c.1 < d.1 then c :: d :: m else d :: Memory.place c m

/-- `MEM[a] <- b` (R9, R10, R48). The callers check `a < 4096` first; past the array nothing is written (log 20). -/
def Memory.write (font : Vector Byte 80) (m : List Host.Cell) (a : Nat) (b : Byte) : List Host.Cell :=
  if a < Config.memSize then
    if b = Memory.background font a then Memory.erase a m
    else Memory.place (a, b) (Memory.erase a m)
  else m

/-- Bytes written at consecutive ascending addresses (R44). -/
def Memory.writeList (font : Vector Byte 80) (m : List Host.Cell) (a : Nat) : List Byte → List Host.Cell
  | [] => m
  | b :: bs => Memory.writeList font (Memory.write font m a b) (a + 1) bs

/-- Every address of the list is at least `lo`, below 4096, in rising order, with no byte equal to the background. -/
def Memory.wfFrom (font : Vector Byte 80) (lo : Nat) : List Host.Cell → Bool
  | [] => true
  | c :: m => decide (lo ≤ c.1) && decide (c.1 < Config.memSize) && decide (c.2 ≠ Memory.background font c.1)
      && Memory.wfFrom font (c.1 + 1) m

/-- The canonical form: equal memories are equal lists. -/
def Memory.wf (font : Vector Byte 80) (m : List Host.Cell) : Bool := Memory.wfFrom font 0 m

/-- `n` bytes from address `a` lie inside the array; no byte at all always does (R43). -/
def rangeOk (a n : Nat) : Bool := decide (n = 0 ∨ a + n ≤ Config.memSize)

/-- The lowest address at or above 4096 among those from `a` on, when some is: `max(a, 4096)` (R103). -/
def oobInfo (a : Word) : Word := if a.toNat < Config.memSize then 0x1000#16 else a

/-- `MEM[a]` of a state. -/
def State.readMem (s : State) (a : Nat) : Byte := Memory.read s.font s.mem a

/-- `MEM[a] <- b` of a state. -/
def State.writeMem (a : Nat) (b : Byte) (s : State) : State :=
  { s with mem := Memory.write s.font s.mem a b }

/-- Bytes stored at consecutive addresses of a state's memory (R44). -/
def State.storeBytes (a : Nat) (bs : List Byte) (s : State) : State :=
  { s with mem := Memory.writeList s.font s.mem a bs }

end Sys2Proof.Machine
end

