-- ==== Sys2Proof/Machine/Operands.lean ====
section
/-! DEFINITION. The operand forms (30_encoding.md R57, 10_state.md R15, R16, R18): registers, I, PC and what is written to them. -/

namespace Sys2Proof.Machine

/-- `V[x]`: a register operand is the register whose index is the 4-bit field (R15, R57). -/
def State.getV (s : State) (x : Nibble) : Byte := s.v[x.toNat]'x.isLt

/-- `V[x] <- b` (R9). No register is hardwired (R15). -/
def State.setV (x : Nibble) (b : Byte) (s : State) : State := { s with v := s.v.set x.toNat b x.isLt }

/-- `I <- w` (R18). -/
def State.setI (w : Word) (s : State) : State := { s with i := w }

/-- `PC <- w` (R19). -/
def State.setPc (w : Word) (s : State) : State := { s with pc := w }

/-- `DT <- b` (R23). -/
def State.setDt (b : Byte) (s : State) : State := { s with dt := b }

/-- `ST <- b` (R24). -/
def State.setSt (b : Byte) (s : State) : State := { s with st := b }

/-- `zext_16(NNN)`: an address operand, zero-extended (R57). -/
def addrOperand (nnn : Addr) : Word := nnn.setWidth 16

/-- `zext_16(V[x])`: a register's byte as a 16-bit value (R8). -/
def byteOperand (b : Byte) : Word := b.setWidth 16

/-- Registers `V[0]` to `V[n - 1]` as a list, V[0] first (R90). -/
def State.firstV (s : State) (n : Nat) : List Byte := s.v.toList.take n

/-- `for i in 0 .. n - 1: V[i] <- MemRead(a + i, 1)` (R91): the registers after it. -/
def loadedV (read : Nat → Byte) (a : Nat) (v : Vector Byte 16) : Nat → Vector Byte 16
  | 0 => v
  | n + 1 => (loadedV read a v n).setIfInBounds n (read (a + n))

/-- The state after loading `V[0]` to `V[n - 1]` from memory at `a` (R91). -/
def State.loadV (a n : Nat) (s : State) : State := { s with v := loadedV s.readMem a s.v n }

end Sys2Proof.Machine
end

