-- ==== Sys2Proof/Machine/Flags.lean ====
section
/-! DEFINITION. The flag computations (10_state.md R16, R17; 41_alu.md R79 to R83) and the write of VF. -/

namespace Sys2Proof.Machine

/-- A flag as VF holds it: 1 or 0 (R17). -/
def flagByte (f : Bool) : Byte := if f then 1#8 else 0#8

/-- Carry out of bit 7 of `a + b` (R79). -/
def carryOut (a b : Byte) : Bool := decide (a.toNat + b.toNat ≥ 256)

/-- NOT borrow of `a - b` (R80, R82). -/
def notBorrow (a b : Byte) : Bool := decide (a.toNat ≥ b.toNat)

/-- The bit a right shift by one puts out (R81). -/
def shrOut (a : Byte) : Bool := a.getLsbD 0

/-- The bit a left shift by one puts out (R83). -/
def shlOut (a : Byte) : Bool := a.getLsbD 7

/-- `V[0xF] <- f ? 1 : 0` (R16). -/
def State.setVF (f : Bool) (s : State) : State := s.setV 0xF#4 (flagByte f)

/-- A result into `V[x]` and then its flag into VF: with `x = 0xF` VF ends holding the flag (R16, D9; log 10). -/
def State.setVAndFlag (x : Nibble) (r : Byte) (f : Bool) (s : State) : State := (s.setV x r).setVF f

end Sys2Proof.Machine
end

