-- ==== Sys2Proof/Machine/Ops.lean ====
section
/-! DEFINITION. The operations the meanings share: the fetch's advance of PC, skips, the call stack, the key latch, the random
draw, and fault entry. A meaning takes the state at the START of the step, in which PC is the instruction's own
address; `fetched` gives the state that the spec's pseudocode runs on (R11, R55; log 7). -/

namespace Sys2Proof.Machine

/-- What a step or a meaning answers. -/
abbrev Result := Host.Outcome State Fault Refusal

/-- The fetch's `PC <- trunc_16(PC + 2)` (R54, R55). -/
def State.fetched (s : State) : State := s.setPc (s.pc + 2#16)

/-- Skip: `PC <- trunc_16(PC + 2)` when the condition holds (40_control.md, before section 1). -/
def State.skipIf (c : Bool) (s : State) : State := if c then s.setPc (s.pc + 2#16) else s

/-- The code of a cause in `FAULT_CAUSE` (R103). -/
def Fault.code : Fault → BitVec 3
  | .unrecognized => 1#3
  | .fetchOob => 2#3
  | .memOob => 3#3
  | .stackOverflow => 4#3
  | .stackUnderflow => 5#3
  | .keyIndex => 6#3
  | .fontDigit => 7#3

/-- Fault entry (R104): from the state at the start of the step only the latch changes. `FAULT_PC` is the PC of that
state, which is not advanced; `w` is the fetched word, 0 for FETCH_OOB. -/
def raise (c : Fault) (info w : Word) (s : State) : Result :=
  .next { s with latch := { faulted := true, cause := c.code, pc := s.pc, word := w, info := info } }

/-- The push of 2NNN: `STACK[SP] <- w`, then `SP <- SP + 1` (R22, R66). The caller checks `SP < 16` first; on a full stack
nothing would be written (log 20). -/
def State.push (w : Word) (s : State) : State :=
  { s with stack := s.stack.setIfInBounds s.sp.val w, sp := ⟨min (s.sp.val + 1) 16, by omega⟩ }

/-- The pop of 00EE: `SP <- SP - 1`, then `PC <- STACK[SP]`; the entry stays (R21, R22, R64). The caller checks `SP > 0`
first. -/
def State.popPc (s : State) : State :=
  { s with sp := ⟨s.sp.val - 1, by omega⟩, pc := s.stack[s.sp.val - 1]'(by omega) }

/-- `KEY[k] = 1` (R29). -/
def State.keyDown (s : State) (k : Nat) : Bool := s.keys.getLsbD k

/-- The lowest pressed key, if any: keys 0 to 15 scanned in ascending order (R99). -/
def State.lowestKey (s : State) : Option Nat := (List.range 16).find? (fun k => s.keyDown k)

/-- `Draw()`: the random byte of the step (R10, R33). It is the next byte the environment has fixed, and a free value
when it has fixed none (log 1). -/
def State.draw (s : State) : Byte :=
  match s.rndIn with
  | b :: _ => b
  | [] => Config.freeRandom s.rndCount

/-- The draw is spent (log 1). -/
def State.drawn (s : State) : State := { s with rndIn := s.rndIn.tail, rndCount := s.rndCount + 1 }

/-- An access to `n` bytes from I: it runs when all of them are inside the array, and otherwise raises MEM_OOB with the
lowest address outside, before any write (R43, R103). -/
def withBytesAtI (n : Nat) (w : Word) (s : State) (go : Result) : Result :=
  if rangeOk s.i.toNat n then go else raise .memOob (oobInfo s.i) w s

end Sys2Proof.Machine
end

