-- ==== Sys2Proof/Machine/Alu.lean ====
section
/-! DEFINITION. Register loads, arithmetic, logic, shifts and the random draw (41_alu.md R73 to R85). Every operand is
read before any write (R11); a flag is written last (R16, D9). -/

namespace Sys2Proof.Machine

/-- LD Vx, NN (R73). -/
def execLdImm (x : Nibble) (nn : Byte) (s : State) : Result := .next (s.fetched.setV x nn)

/-- ADD Vx, NN (R74): no flag. -/
def execAddImm (x : Nibble) (nn : Byte) (s : State) : Result := .next (s.fetched.setV x (s.getV x + nn))

/-- LD Vx, Vy (R75). -/
def execLdReg (x y : Nibble) (s : State) : Result := .next (s.fetched.setV x (s.getV y))

/-- OR Vx, Vy (R76): no flag. -/
def execOrReg (x y : Nibble) (s : State) : Result := .next (s.fetched.setV x (s.getV x ||| s.getV y))

/-- AND Vx, Vy (R77): no flag. -/
def execAndReg (x y : Nibble) (s : State) : Result := .next (s.fetched.setV x (s.getV x &&& s.getV y))

/-- XOR Vx, Vy (R78): no flag. -/
def execXorReg (x y : Nibble) (s : State) : Result := .next (s.fetched.setV x (s.getV x ^^^ s.getV y))

/-- ADD Vx, Vy (R79): VF is the carry. -/
def execAddReg (x y : Nibble) (s : State) : Result :=
  .next (s.fetched.setVAndFlag x (s.getV x + s.getV y) (carryOut (s.getV x) (s.getV y)))

/-- SUB Vx, Vy (R80): VF is NOT borrow. -/
def execSubReg (x y : Nibble) (s : State) : Result :=
  .next (s.fetched.setVAndFlag x (s.getV x - s.getV y) (notBorrow (s.getV x) (s.getV y)))

/-- SHR Vx, Vy (R81): shifts V[X] in place; V[Y] is not read. -/
def execShr (x _y : Nibble) (s : State) : Result :=
  .next (s.fetched.setVAndFlag x (s.getV x >>> 1) (shrOut (s.getV x)))

/-- SUBN Vx, Vy (R82): VF is NOT borrow of `V[Y] - V[X]`. -/
def execSubn (x y : Nibble) (s : State) : Result :=
  .next (s.fetched.setVAndFlag x (s.getV y - s.getV x) (notBorrow (s.getV y) (s.getV x)))

/-- SHL Vx, Vy (R83): shifts V[X] in place; V[Y] is not read. -/
def execShl (x _y : Nibble) (s : State) : Result :=
  .next (s.fetched.setVAndFlag x (s.getV x <<< 1) (shlOut (s.getV x)))

/-- RND Vx, NN (R84): the step's random byte, masked. -/
def execRnd (x : Nibble) (nn : Byte) (s : State) : Result :=
  .next (s.fetched.drawn.setV x (s.draw &&& nn))

end Sys2Proof.Machine
end

