-- ==== Sys2Proof/Machine/Control.lean ====
section
/-! DEFINITION. Control flow: no-op, return, jumps, call, skips (40_control.md R63 to R72). -/

namespace Sys2Proof.Machine

/-- NOP (R63): only the fetch's advance. -/
def execNop (s : State) : Result := .next s.fetched

/-- RET (R64). -/
def execRet (s : State) : Result :=
  if s.sp.val = 0 then raise .stackUnderflow 0#16 (encode .ret) s
  else .next s.fetched.popPc

/-- JP NNN (R65). -/
def execJp (nnn : Addr) (s : State) : Result := .next (s.fetched.setPc (addrOperand nnn))

/-- CALL NNN (R66): pushes the address of the instruction after it. -/
def execCall (nnn : Addr) (s : State) : Result :=
  if s.sp.val = 16 then raise .stackOverflow 16#16 (encode (.call nnn)) s
  else .next ((s.fetched.push s.fetched.pc).setPc (addrOperand nnn))

/-- SE Vx, NN (R67). -/
def execSeImm (x : Nibble) (nn : Byte) (s : State) : Result :=
  .next (s.fetched.skipIf (s.getV x == nn))

/-- SNE Vx, NN (R68). -/
def execSneImm (x : Nibble) (nn : Byte) (s : State) : Result :=
  .next (s.fetched.skipIf (s.getV x != nn))

/-- SE Vx, Vy (R69). -/
def execSeReg (x y : Nibble) (s : State) : Result :=
  .next (s.fetched.skipIf (s.getV x == s.getV y))

/-- SNE Vx, Vy (R70). -/
def execSneReg (x y : Nibble) (s : State) : Result :=
  .next (s.fetched.skipIf (s.getV x != s.getV y))

/-- JP V0, NNN (R71): the sum is not reduced to 12 bits. -/
def execJpV0 (nnn : Addr) (s : State) : Result :=
  .next (s.fetched.setPc (byteOperand (s.getV 0x0#4) + addrOperand nnn))

end Sys2Proof.Machine
end

