-- ==== Sys2Proof/Machine/Display.lean ====
section
/-! DEFINITION. The display: clear and draw (43_display.md R92 to R95). -/

namespace Sys2Proof.Machine

/-- The flat index of the pixel in column x, row y (R28). -/
def pixelIndex (x y : Nat) : Nat := x + 64 * y

/-- `DISP[x, y]` (R9, R28). -/
def State.pixel (s : State) (x y : Nat) : Bool := s.disp.getLsbD (pixelIndex x y)

/-- What a draw carries along: the pixels, and whether a set sprite bit has met a pixel that was on (R93, R95). -/
structure Canvas where
  disp      : BitVec 2048
  collision : Bool
  deriving DecidableEq, Repr

/-- One pixel toggled, with the collision noted (R93, R95). -/
def Canvas.toggle (k : Canvas) (p : Nat) : Canvas :=
  { disp := k.disp ^^^ BitVec.twoPow 2048 p, collision := k.collision || k.disp.getLsbD p }

/-- The sprite bit of column offset `c` in row offset `r`, onto the pixel it falls on: bit 7 is the leftmost (R94), and
each coordinate wraps after the offset is added (R93 (a)). -/
def Canvas.plot (bx by_ : Byte) (sprite : Byte) (r : Nat) (k : Canvas) (c : Nat) : Canvas :=
  if sprite.getLsbD (7 - c) then k.toggle (pixelIndex ((bx.toNat + c) % 64) ((by_.toNat + r) % 32)) else k

/-- The eight columns of one sprite row (R93). -/
def Canvas.drawRow (bx by_ : Byte) (read : Nat → Byte) (k : Canvas) (r : Nat) : Canvas :=
  (List.range 8).foldl (Canvas.plot bx by_ (read r) r) k

/-- The `n` rows of a sprite, `read r` being the byte of row r (R93). -/
def Canvas.drawSprite (bx by_ : Byte) (read : Nat → Byte) (n : Nat) (k : Canvas) : Canvas :=
  (List.range n).foldl (Canvas.drawRow bx by_ read) k

/-- The display replaced. -/
def State.setDisp (d : BitVec 2048) (s : State) : State := { s with disp := d }

/-- The canvas after DXYN on a state: the sprite is read from memory at I (R93). -/
def State.drawnCanvas (s : State) (x y n : Nibble) : Canvas :=
  Canvas.drawSprite (s.getV x) (s.getV y) (fun r => s.readMem (s.i.toNat + r)) n.toNat ⟨s.disp, false⟩

/-- CLS (R92). -/
def execCls (s : State) : Result := .next (s.fetched.setDisp 0#2048)

/-- DRW Vx, Vy, N (R93): VF is written last and on every draw. -/
def execDrw (x y n : Nibble) (s : State) : Result :=
  withBytesAtI n.toNat (encode (.drw x y n)) s
    (.next ((s.fetched.setDisp (s.drawnCanvas x y n).disp).setVF (s.drawnCanvas x y n).collision))

end Sys2Proof.Machine
end

