-- ==== Sys2Proof/Machine/IndexMemory.lean ====
section
/-! DEFINITION. The address register, font address, BCD, register save and load (42_index_memory.md R86 to R91). None
of FX33, FX55, FX65 changes I (R12). -/

namespace Sys2Proof.Machine

/-- LD I, NNN (R86). -/
def execLdI (nnn : Addr) (s : State) : Result := .next (s.fetched.setI (addrOperand nnn))

/-- ADD I, Vx (R87): modulo 2^16, no flag. -/
def execAddI (x : Nibble) (s : State) : Result := .next (s.fetched.setI (s.i + byteOperand (s.getV x)))

/-- LD F, Vx (R88): a digit above 15 faults (C2). -/
def execLdF (x : Nibble) (s : State) : Result :=
  if (s.getV x).toNat ≤ 15 then .next (s.fetched.setI (BitVec.ofNat 16 (5 * (s.getV x).toNat)))
  else raise .fontDigit (byteOperand (s.getV x)) (encode (.ldF x)) s

/-- The decimal digits of a byte: hundreds, tens, ones (R89). -/
def bcdDigits (b : Byte) : List Byte :=
  [BitVec.ofNat 8 (b.toNat / 100), BitVec.ofNat 8 (b.toNat / 10 % 10), BitVec.ofNat 8 (b.toNat % 10)]

/-- LD B, Vx (R89). -/
def execLdB (x : Nibble) (s : State) : Result :=
  withBytesAtI 3 (encode (.ldB x)) s (.next (s.fetched.storeBytes s.i.toNat (bcdDigits (s.getV x))))

/-- LD [I], Vx (R90): `V[0]` to `V[X]` to memory. -/
def execStoreRegs (x : Nibble) (s : State) : Result :=
  withBytesAtI (x.toNat + 1) (encode (.storeRegs x)) s
    (.next (s.fetched.storeBytes s.i.toNat (s.firstV (x.toNat + 1))))

/-- LD Vx, [I] (R91): memory to `V[0]` to `V[X]`. -/
def execLoadRegs (x : Nibble) (s : State) : Result :=
  withBytesAtI (x.toNat + 1) (encode (.loadRegs x)) s (.next (s.fetched.loadV s.i.toNat (x.toNat + 1)))

end Sys2Proof.Machine
end

