-- ==== Sys2Proof/Machine/KeysTimers.lean ====
section
/-! DEFINITION. Keys and timers (44_keys_timers.md R96 to R101). -/

namespace Sys2Proof.Machine

/-- SKP Vx (R96): a key index above 15 faults. -/
def execSkp (x : Nibble) (s : State) : Result :=
  if (s.getV x).toNat ≤ 15 then .next (s.fetched.skipIf (s.keyDown (s.getV x).toNat))
  else raise .keyIndex (byteOperand (s.getV x)) (encode (.skp x)) s

/-- SKNP Vx (R97): a key index above 15 faults. -/
def execSknp (x : Nibble) (s : State) : Result :=
  if (s.getV x).toNat ≤ 15 then .next (s.fetched.skipIf (!s.keyDown (s.getV x).toNat))
  else raise .keyIndex (byteOperand (s.getV x)) (encode (.sknp x)) s

/-- LD Vx, DT (R98). -/
def execLdVxDt (x : Nibble) (s : State) : Result := .next (s.fetched.setV x s.dt)

/-- LD Vx, K (R99): the lowest pressed key, or PC back on the instruction itself. -/
def execLdVxK (x : Nibble) (s : State) : Result :=
  match s.lowestKey with
  | some k => .next (s.fetched.setV x (BitVec.ofNat 8 k))
  | none => .next (s.fetched.setPc (s.fetched.pc - 2#16))

/-- LD DT, Vx (R100). -/
def execLdDtVx (x : Nibble) (s : State) : Result := .next (s.fetched.setDt (s.getV x))

/-- LD ST, Vx (R101). -/
def execLdStVx (x : Nibble) (s : State) : Result := .next (s.fetched.setSt (s.getV x))

end Sys2Proof.Machine
end

