-- ==== Sys2Proof/Machine/Sequencer.lean ====
section
/-! DEFINITION. The step sequencer: fetch, decode, execute (30_encoding.md R54, R55). -/

namespace Sys2Proof.Machine

/-- `MEM[PC] ++ MEM[PC + 1]`, big-endian (R45, R55). -/
def State.fetchWord (s : State) : Word :=
  wordOfBytes (s.readMem s.pc.toNat) (s.readMem (s.pc.toNat + 1))

/-- One `Step` (R54): nothing while halted (R106); otherwise the fetch, the decode and the execute phase, the first
fault in that order being the one raised (R107). -/
def coreStep (s : State) : Result :=
  if s.latch.faulted then .next s
  else if Config.memSize ≤ s.pc.toNat + 1 then raise .fetchOob (oobInfo s.pc) 0#16 s
  else
    match decode s.fetchWord with
    | .error _ => raise .unrecognized 0#16 s.fetchWord s
    | .ok i => exec i s

end Sys2Proof.Machine
end

