-- ==== Sys2Proof/Machine/Transactions.lean ====
section
/-! DEFINITION. The transactions on the core's boundary (10_state.md R32 to R40, 60_exceptions.md R106, R108, R112,
70_reset_and_hazards.md R119, R121). -/

namespace Sys2Proof.Machine

/-- One timer's countdown: down by one, and 0 stays 0 (R112). -/
def countDown (t : Byte) : Byte := if 0 < t.toNat then t - 1#8 else t

/-- `TimerTick` (R112): both timers, and nothing while halted (R106). -/
def timerTick (s : State) : State :=
  if s.latch.faulted then s else { s with dt := countDown s.dt, st := countDown s.st }

/-- `HostWriteMem(a, b)` (R35): in any core status (R106). -/
def hostWriteMem (a : Addr) (b : Byte) (s : State) : State := s.writeMem a.toNat b

/-- `HostSetKeys(k16)` (R36): in any core status (R106). -/
def hostSetKeys (k16 : BitVec 16) (s : State) : State := { s with keys := k16 }

/-- `Reset` (R39, R119), in any core status: every piece of the machine's state is the reset state's. FONT is a
parameter, and the environment's draws and the host's plans are no state of the machine: they stay (log 21). -/
def hostReset (s : State) : State :=
  { State.reset with font := s.font, rndIn := s.rndIn, rndCount := s.rndCount, agenda := s.agenda }

/-- `HostReadMem(a)` (R38). -/
def hostReadMem (a : Addr) (s : State) : Byte := s.readMem a.toNat

/-- The tone output (R37, R114). -/
def toneOutput (s : State) : Bool := s.st != 0#8

/-- One transaction performed. -/
def perform (t : Transaction) (s : State) : Result :=
  match t with
  | .step => coreStep s
  | .timerTick => .next (timerTick s)
  | .reset => .next (hostReset s)
  | .hostWriteMem a b => .next (hostWriteMem a b s)
  | .hostSetKeys k16 => .next (hostSetKeys k16 s)

/-- The next transaction: the first on the agenda, taken off it, or a Step when the agenda is empty (R40; log 5). -/
def performNext (s : State) : Result :=
  match s.agenda with
  | [] => coreStep s
  | t :: rest => perform t { s with agenda := rest }

/-- A program image written by `HostWriteMem` at consecutive addresses from 0x200 (R35, R121). -/
def loadImage (bytes : List Byte) (s : State) : State :=
  s.storeBytes Config.startAddr.toNat bytes

/-- What the host asks for at one moment (R108). -/
structure Requests where
  step  : Bool
  tick  : Bool
  reset : Bool
  deriving DecidableEq, Repr

/-- The orders in which simultaneous requests may be taken: a Reset alone, the others discarded; a Step and a TimerTick
in either order (R40, R108, D18, D28). -/
def Requests.orders : Requests → List (List Transaction)
  | ⟨_, _, true⟩ => [[.reset]]
  | ⟨true, true, false⟩ => [[.step, .timerTick], [.timerTick, .step]]
  | ⟨true, false, false⟩ => [[.step]]
  | ⟨false, true, false⟩ => [[.timerTick]]
  | ⟨false, false, false⟩ => [[]]

/-- The state from which the next transaction is a Step that fetches the word: the core is ready, nothing is on the agenda,
and the word stands at PC, which is moved to the reset vector when no word fits at it (log 6). -/
def placeForFetch (w : Word) (s : State) : State :=
  let pc := if Config.memSize ≤ s.pc.toNat + 1 then Config.startAddr else s.pc
  { (s.storeBytes pc.toNat [highByte w, lowByte w]) with pc := pc, latch := FaultLatch.clear, agenda := [] }

end Sys2Proof.Machine
end

