-- ==== Sys2Proof/Machine/Step.lean ====
section
/-! DEFINITION. One step of the machine, and the state in which a given word is the next one fetched. -/

namespace Sys2Proof.Machine

/-- One transaction: the host's next one, or a `Step` when the host has scheduled none (R32, R40; log 5). -/
def step (s : State) : Host.Outcome State Fault Refusal := performNext s

/-- The state whose very next step fetches and runs the instruction with these bits (log 6). -/
def State.withFetchWord (s : State) (nbits w : Nat) : State := placeForFetch (tableWord nbits w) s

end Sys2Proof.Machine
end

