-- ==== Sys2Proof/Safety.lean ====
section
/-! DEFINITION. The words that claims are stated in: what an instruction leaves unchanged, when it faults, what the latch
of a halted core says, the invariants, and what a safe run is. -/

namespace Sys2Proof.Machine

/-! ### Frames (00_scope.md R12) -/

/-- The pieces of state other than PC, each of which a frame speaks of on its own. -/
inductive Part where
  | v | i | stack | sp | dt | st | latch | font | mem | disp | keys | random | agenda
  deriving DecidableEq, Repr

/-- A piece of state is the same in two states. Memory is compared by what every address reads as. -/
def Part.same (s t : State) : Part → Prop
  | .v => t.v = s.v
  | .i => t.i = s.i
  | .stack => t.stack = s.stack
  | .sp => t.sp = s.sp
  | .dt => t.dt = s.dt
  | .st => t.st = s.st
  | .latch => t.latch = s.latch
  | .font => t.font = s.font
  | .mem => ∀ a, t.readMem a = s.readMem a
  | .disp => t.disp = s.disp
  | .keys => t.keys = s.keys
  | .random => t.rndIn = s.rndIn ∧ t.rndCount = s.rndCount
  | .agenda => t.agenda = s.agenda

/-- Every piece of state other than PC and those listed is unchanged from `s` to `t`. -/
def unchangedBut (written : List Part) (s t : State) : Prop := ∀ p : Part, p ∉ written → p.same s t

/-- PC has moved past the instruction's one word (R55). -/
def pcAdvanced (s t : State) : Prop := t.pc.toNat = (s.pc.toNat + 2) % 65536

/-- Every register but those listed is unchanged from `s` to `t`. -/
def registersUnchangedBut (written : List Nibble) (s t : State) : Prop :=
  ∀ r : Nibble, r ∉ written → t.getV r = s.getV r

/-! ### Faults (60_exceptions.md R103 to R107) -/

/-- The core status `READY` (R26). -/
def State.ready (s : State) : Prop := s.latch.faulted = false

/-- The state after fault entry from `s` (R104): the latch is written, everything else stays. -/
def State.halted (s : State) (c : Fault) (info w : Word) : State :=
  { s with latch := { faulted := true, cause := c.code, pc := s.pc, word := w, info := info } }

/-- MEM_OOB of an access to `n` bytes from I, with the lowest address outside memory (R103). -/
def memOobOf (s : State) (n : Nat) : Option (Fault × Word) :=
  if 0 < n ∧ 4096 ≤ s.i.toNat + n - 1 then some (.memOob, BitVec.ofNat 16 (max s.i.toNat 4096)) else none

/-- KEY_INDEX or FONT_DIGIT of a register above 15, with its value (R103). -/
def above15Of (c : Fault) (b : Byte) : Option (Fault × Word) :=
  if 15 < b.toNat then some (c, BitVec.ofNat 16 b.toNat) else none

/-- The fault an instruction raises in a state, with its `FAULT_INFO`: the "Raised by" and "Condition" columns of the
table of R103. -/
def faultOf (s : State) : Instr → Option (Fault × Word)
  | .ret => if s.sp.val = 0 then some (.stackUnderflow, 0#16) else none
  | .call _ => if s.sp.val = 16 then some (.stackOverflow, 16#16) else none
  | .drw _ _ n => memOobOf s n.toNat
  | .ldB _ => memOobOf s 3
  | .storeRegs x => memOobOf s (x.toNat + 1)
  | .loadRegs x => memOobOf s (x.toNat + 1)
  | .skp x => above15Of .keyIndex (s.getV x)
  | .sknp x => above15Of .keyIndex (s.getV x)
  | .ldF x => above15Of .fontDigit (s.getV x)
  | .nop | .cls | .jp _ | .seImm _ _ | .sneImm _ _ | .seReg _ _ | .ldImm _ _ | .addImm _ _ | .ldReg _ _
  | .orReg _ _ | .andReg _ _ | .xorReg _ _ | .addReg _ _ | .subReg _ _ | .shr _ _ | .subn _ _ | .shl _ _
  | .sneReg _ _ | .ldI _ | .jpV0 _ | .rnd _ _ | .ldVxDt _ | .ldVxK _ | .ldDtVx _ | .ldStVx _ | .addI _ => none

/-- What a latched cause, word and info say of the frozen state (R103). -/
def faultRecord (s : State) : Prop :=
  (s.latch.cause = Fault.fetchOob.code ∧ s.latch.word = 0#16 ∧ 4096 ≤ s.pc.toNat + 1
    ∧ s.latch.info.toNat = max s.pc.toNat 4096)
  ∨ (s.latch.cause = Fault.unrecognized.code ∧ s.latch.info = 0#16 ∧ wordWellFormed s.latch.word = false)
  ∨ ∃ i c, decode s.latch.word = .ok i ∧ faultOf s i = some (c, s.latch.info) ∧ s.latch.cause = c.code

/-- The latch is clear while the core is ready, and tells the frozen state's fault while it is halted (R25, R104). -/
def latchMeaning (s : State) : Prop :=
  (s.ready → s.latch = FaultLatch.clear) ∧ (s.latch.faulted = true → s.latch.pc = s.pc ∧ faultRecord s)

/-! ### What each instruction writes (R12, R17) -/

/-- The pieces of state, other than PC and the fault latch, that an instruction's rule names as written (R12). -/
def partsWritten : Instr → List Part
  | .nop | .jp _ | .jpV0 _ | .seImm _ _ | .sneImm _ _ | .seReg _ _ | .sneReg _ _ | .skp _ | .sknp _ => []
  | .ret => [.sp]
  | .call _ => [.stack, .sp]
  | .ldImm _ _ | .addImm _ _ | .ldReg _ _ | .orReg _ _ | .andReg _ _ | .xorReg _ _ | .addReg _ _ | .subReg _ _
  | .shr _ _ | .subn _ _ | .shl _ _ | .ldVxDt _ | .ldVxK _ | .loadRegs _ => [.v]
  | .rnd _ _ => [.v, .random]
  | .ldI _ | .addI _ | .ldF _ => [.i]
  | .cls => [.disp]
  | .drw _ _ _ => [.v, .disp]
  | .ldDtVx _ => [.dt]
  | .ldStVx _ => [.st]
  | .ldB _ | .storeRegs _ => [.mem]

/-- The registers an instruction's rule may write: its destination, and VF for the flag writers of R17. -/
def registersWritten : Instr → Nibble → Prop
  | .ldImm x _, r | .addImm x _, r | .ldReg x _, r | .orReg x _, r | .andReg x _, r | .xorReg x _, r
  | .rnd x _, r | .ldVxDt x, r | .ldVxK x, r => r = x
  | .addReg x _, r | .subReg x _, r | .shr x _, r | .subn x _, r | .shl x _, r => r = x ∨ r = 0xF#4
  | .drw _ _ _, r => r = 0xF#4
  | .loadRegs x, r => r.toNat ≤ x.toNat
  | .nop, _ | .cls, _ | .ret, _ | .jp _, _ | .call _, _ | .seImm _ _, _ | .sneImm _ _, _ | .seReg _ _, _
  | .sneReg _ _, _ | .ldI _, _ | .jpV0 _, _ | .skp _, _ | .sknp _, _ | .ldDtVx _, _ | .ldStVx _, _ | .addI _, _
  | .ldF _, _ | .ldB _, _ | .storeRegs _, _ => False

/-! ### The display (43_display.md R93, R94) -/

/-- A set bit of the `n`-row sprite at I, drawn with base (V[x], V[y]), falls on the pixel in column px, row py: bit
7 - c of row r falls on column (V[x] + c) mod 64 and row (V[y] + r) mod 32 (R93, R94). -/
def spriteCovers (s : State) (x y n : Nibble) (px py : Nat) : Prop :=
  ∃ r c : Nat, r < n.toNat ∧ c < 8 ∧ (s.readMem (s.i.toNat + r)).getLsbD (7 - c) = true
    ∧ px = ((s.getV x).toNat + c) % 64 ∧ py = ((s.getV y).toNat + r) % 32

/-! ### Invariants -/

/-- Memory is in its canonical form. -/
def memoryCanonical (s : State) : Prop := Memory.wf s.font s.mem = true

/-- PC stays where R126 says it stays, with what that needs of the return addresses. -/
def pcBounded (s : State) : Prop :=
  s.pc.toNat ≤ 0x10FE ∧ ∀ k : Fin 16, (s.stack[k]).toNat ≤ 0x1000

/-- PC is even, and so is every return address (R19). -/
def pcEven (s : State) : Prop :=
  s.pc.toNat % 2 = 0 ∧ ∀ k : Fin 16, (s.stack[k]).toNat % 2 = 0

/-- The target of a jump, a call or a BNNN is even (R19). -/
def evenTarget (s : State) : Instr → Prop
  | .jp nnn => nnn.toNat % 2 = 0
  | .call nnn => nnn.toNat % 2 = 0
  | .jpV0 nnn => ((s.getV 0#4).toNat + nnn.toNat) % 2 = 0
  | .nop | .cls | .ret | .seImm _ _ | .sneImm _ _ | .seReg _ _ | .sneReg _ _ | .ldImm _ _ | .addImm _ _
  | .ldReg _ _ | .orReg _ _ | .andReg _ _ | .xorReg _ _ | .addReg _ _ | .subReg _ _ | .shr _ _ | .subn _ _
  | .shl _ _ | .ldI _ | .rnd _ _ | .drw _ _ _ | .skp _ | .sknp _ | .ldVxDt _ | .ldVxK _ | .ldDtVx _ | .ldStVx _
  | .addI _ | .ldF _ | .ldB _ | .storeRegs _ | .loadRegs _ => True

/-! ### Runs -/

/-- A run of `n` steps is safe when no state on it is halted: a faulted state is never a successful end (R104). -/
def safeRun (n : Nat) (s : State) : Prop :=
  ∀ k ≤ n, ∃ t, Host.Core.run Sys2Proof.core k s = .next t ∧ t.ready

end Sys2Proof.Machine
end

