-- ==== Sys2Proof/Certificates/Slice0/Obligations.lean ====
section
/-! DEFINITION. The statements for the provers. Each docstring names the rules of spec/ it comes from. Where a statement
rests on a choice of the model, its docstring says so and names the log entry. -/

open Sys2Proof Sys2Proof.Machine

/-! ### Encoding -/

/-- Decoding an encoded instruction gives it back, with every operand at every value (R56, R57, R58). -/
def Obligations.DecodeOfEncodeIsTheInstruction : Prop :=
  ∀ i : Instr, decode (encode i) = .ok i

/-- A word that decodes is the word its instruction encodes to: no bit of an accepted word is lost, so `FAULT_WORD`, which
the model writes as `encode i` (log 7), is the fetched word (R25, R56). -/
def Obligations.EncodeOfDecodeIsTheWord : Prop :=
  ∀ (w : Word) (i : Instr), decode w = .ok i → encode i = w

/-- R58: a row of the dispatch table selects a word exactly when the decoder reads an instruction of that row's class from
it, and no word matches two rows. (The class numbers are the spec's decision D2.) -/
def Obligations.DecodeSelectsTheTableRow : Prop :=
  (∀ (w : Word) (r : Row), r ∈ dispatchTable →
    (w &&& r.mask = r.pattern ↔ ∃ i, decode w = .ok i ∧ i.rowClass = r.cls)) ∧
  (∀ (w : Word) (r q : Row), r ∈ dispatchTable → q ∈ dispatchTable →
    w &&& r.mask = r.pattern → w &&& q.mask = q.pattern → r = q)

/-- R59: the words that are unrecognized, family by family, and no others. (The rule's counts are not stated.) -/
def Obligations.UnrecognizedWordsAreTheListedFamilies : Prop :=
  ∀ w : Word, decode w = .error (.unrecognized w) ↔
    ((w.toNat ≤ 0x0FFF ∧ w ≠ 0x0000#16 ∧ w ≠ 0x00E0#16 ∧ w ≠ 0x00EE#16)
    ∨ (w.toNat / 4096 = 0x5 ∧ w.toNat % 16 ≠ 0)
    ∨ (w.toNat / 4096 = 0x8 ∧ w.toNat % 16 ∈ [0x8, 0x9, 0xA, 0xB, 0xC, 0xD, 0xF])
    ∨ (w.toNat / 4096 = 0x9 ∧ w.toNat % 16 ≠ 0)
    ∨ (w.toNat / 4096 = 0xE ∧ w.toNat % 256 ∉ [0x9E, 0xA1])
    ∨ (w.toNat / 4096 = 0xF ∧ w.toNat % 256 ∉ [0x07, 0x0A, 0x15, 0x18, 0x1E, 0x29, 0x33, 0x55, 0x65]))

/-- Words written out in the spec's examples decode to the instructions they stand for (95_test_vectors.md). -/
def Obligations.SampleWordsDecode : Prop :=
  decode 0x1ABC#16 = .ok (.jp 0xABC#12) ∧ decode 0x332A#16 = .ok (.seImm 3#4 0x2A#8) ∧
  decode 0x8124#16 = .ok (.addReg 1#4 2#4) ∧ decode 0xC30F#16 = .ok (.rnd 3#4 0x0F#8) ∧
  decode 0xD005#16 = .ok (.drw 0#4 0#4 5#4) ∧ decode 0xE5A1#16 = .ok (.sknp 5#4) ∧
  decode 0xF265#16 = .ok (.loadRegs 2#4) ∧ decode 0x8128#16 = .error (.unrecognized 0x8128#16)

/-! ### The step -/

/-- R54, R55: when the core is ready and the two bytes at PC, high byte first, decode to an instruction, a step that nobody
scheduled is that instruction's meaning at that state, and a Step scheduled on the agenda is its meaning at that state with
the agenda's first entry taken off (log 5); the meaning itself moves PC past the word (log 7). -/
def Obligations.StepRunsTheDecodedInstruction : Prop :=
  ∀ (s : State) (i : Instr), s.ready → s.pc.toNat + 1 < 4096 →
    decode (s.readMem s.pc.toNat ++ s.readMem (s.pc.toNat + 1)) = .ok i →
    (s.agenda = [] → step s = exec i s) ∧
    (∀ rest, s.agenda = .step :: rest → step s = exec i { s with agenda := rest })

/-- R55, R103, R104: a fetch with `PC + 1 >= 4096` raises FETCH_OOB with `max(PC, 4096)`, and only the latch changes, whether
the Step is one that nobody scheduled or one on the agenda, which is then taken off it (log 5). (The fault and what it leaves
are the spec's decisions D5, D6 and D7.) -/
def Obligations.FetchOutsideMemoryFaults : Prop :=
  ∀ s : State, s.ready → 4096 ≤ s.pc.toNat + 1 →
    (s.agenda = [] → step s = .next (s.halted .fetchOob (BitVec.ofNat 16 (max s.pc.toNat 4096)) 0#16)) ∧
    (∀ rest, s.agenda = .step :: rest →
      step s = .next
        ({ s with agenda := rest }.halted .fetchOob (BitVec.ofNat 16 (max s.pc.toNat 4096)) 0#16))

/-- R59, R103, R104: a word of no row raises UNRECOGNIZED with `FAULT_WORD` the word, and only the latch changes, whether the
Step is one that nobody scheduled or one on the agenda, which is then taken off it (log 5). (What the fault leaves and the
latch are the spec's decisions D6 and D7.) -/
def Obligations.UnrecognizedWordFaults : Prop :=
  ∀ s : State, s.ready → s.pc.toNat + 1 < 4096 →
    wordWellFormed (s.readMem s.pc.toNat ++ s.readMem (s.pc.toNat + 1)) = false →
    (s.agenda = [] →
      step s = .next (s.halted .unrecognized 0#16 (s.readMem s.pc.toNat ++ s.readMem (s.pc.toNat + 1)))) ∧
    (∀ rest, s.agenda = .step :: rest →
      step s = .next
        ({ s with agenda := rest }.halted .unrecognized 0#16 (s.readMem s.pc.toNat ++ s.readMem (s.pc.toNat + 1))))

/-- R106: while the core is halted, a Step changes nothing, a TimerTick changes nothing, a HostWriteMem and a HostSetKeys
still act, and a Reset clears the latch. (A transaction on the agenda is taken off it: log 5.) (The halt is the spec's
decision D8.) -/
def Obligations.HaltedCoreIsFrozenButForTheHost : Prop :=
  ∀ s : State, s.latch.faulted = true →
    (s.agenda = [] → step s = .next s) ∧
    (∀ rest, s.agenda = .step :: rest → step s = .next { s with agenda := rest }) ∧
    (∀ rest, s.agenda = .timerTick :: rest → step s = .next { s with agenda := rest }) ∧
    (∀ a b rest, s.agenda = .hostWriteMem a b :: rest →
      ∃ t, step s = .next t ∧ t.readMem a.toNat = b ∧ t.pc = s.pc ∧ unchangedBut [.mem, .agenda] s t) ∧
    (∀ k rest, s.agenda = .hostSetKeys k :: rest →
      ∃ t, step s = .next t ∧ t.keys = k ∧ t.pc = s.pc ∧ unchangedBut [.keys, .agenda] s t) ∧
    (∀ rest, s.agenda = .reset :: rest → ∃ t, step s = .next t ∧ t.ready ∧ t.latch = FaultLatch.clear)

/-- R32: a Step, and every other transaction, always completes: no step of the machine ends in a fault outcome or a refusal.
(That a fault too is a next state is log 3.) -/
def Obligations.EveryStepCompletes : Prop :=
  ∀ s : State, ∃ t, step s = .next t

/-- R103, R104, R107: an instruction faults exactly where the table of R103 says it does, with the table's cause and info; a
fault leaves every piece of state but the latch as it was at the start of the step, with `FAULT_PC` that state's PC and
`FAULT_WORD` the instruction's word; and an instruction that does not fault leaves the latch alone. (The codes, the
precision and the priority are the spec's decisions D5, D6, D7, D26 and D28.) -/
def Obligations.InstructionsFaultExactlyByTheTable : Prop :=
  ∀ (i : Instr) (s : State),
    (∀ c info, faultOf s i = some (c, info) → exec i s = .next (s.halted c info (encode i))) ∧
    (faultOf s i = none → ∃ t, exec i s = .next t ∧ t.latch = s.latch)

/-- R104, with R103's "no host transaction raises a fault", as a frame of the whole step: what halts a ready core is a Step, one
that nobody scheduled or one on the agenda, which is then taken off it (log 5); and it changes nothing but the latch, whose
`FAULT_PC` is PC. (The precision is the spec's decision D6.) -/
def Obligations.FaultsArePrecise : Prop :=
  ∀ s t : State, s.ready → step s = .next t → ¬ t.ready →
    (s.agenda = [] ∨ ∃ rest, s.agenda = .step :: rest) ∧
    (s.agenda = [] → t = { s with latch := t.latch }) ∧
    (∀ rest, s.agenda = .step :: rest → t = { s with latch := t.latch, agenda := rest }) ∧
    t.latch.pc = s.pc

/-! ### Host transactions -/

/-- R34, R112: a TimerTick of a ready core takes each nonzero timer down by exactly one, leaves a zero timer at zero, and
changes nothing else. (By exactly one: the spec's decision D29. The agenda: log 5.) -/
def Obligations.TimerTickCountsBothDown : Prop :=
  ∀ (s : State) (rest : List Transaction), s.ready → s.agenda = .timerTick :: rest →
    ∃ t, step s = .next t ∧ t.dt.toNat = s.dt.toNat - 1 ∧ t.st.toNat = s.st.toNat - 1 ∧
      t.agenda = rest ∧ t.pc = s.pc ∧ unchangedBut [.dt, .st, .agenda] s t

/-- R35: HostWriteMem writes its one byte in any core status, and changes nothing else. (In any status: the spec's decision
D19. The agenda: log 5.) -/
def Obligations.HostWriteMemWritesOneByte : Prop :=
  ∀ (s : State) (a : Addr) (b : Byte) (rest : List Transaction), s.agenda = .hostWriteMem a b :: rest →
    ∃ t, step s = .next t ∧ (∀ k, t.readMem k = if k = a.toNat then b else s.readMem k) ∧
      t.agenda = rest ∧ t.pc = s.pc ∧ unchangedBut [.mem, .agenda] s t

/-- R36: HostSetKeys writes the sixteen key flags in any core status, and changes nothing else. (The agenda: log 5.) -/
def Obligations.HostSetKeysWritesTheLatch : Prop :=
  ∀ (s : State) (k16 : BitVec 16) (rest : List Transaction), s.agenda = .hostSetKeys k16 :: rest →
    ∃ t, step s = .next t ∧ (∀ k < 16, t.keyDown k = k16.getLsbD k) ∧
      t.agenda = rest ∧ t.pc = s.pc ∧ unchangedBut [.keys, .agenda] s t

/-- R39, R119: a Reset, in any core status and whatever the state before, leaves PC at 0x200, every register, stack entry,
key and pixel 0, FONT at 0 to 79 and 0 at every other address, and the latch clear. (That FONT, the draws and the agenda's
rest stay is the model's choice: log 21.) (The zeros are the spec's decisions D12 and D13.) -/
def Obligations.ResetRestoresTheJustCreatedState : Prop :=
  ∀ (s : State) (rest : List Transaction), s.agenda = .reset :: rest →
    ∃ t, step s = .next t ∧
      (∀ a < 80, t.readMem a = s.font.toList.getD a 0#8) ∧ (∀ a, 80 ≤ a → t.readMem a = 0#8) ∧
      (∀ r, t.getV r = 0#8) ∧ (∀ k : Fin 16, t.stack[k] = 0#16) ∧ (∀ k < 16, t.keyDown k = false) ∧
      (∀ x < 64, ∀ y < 32, t.pixel x y = false) ∧
      t.i = 0#16 ∧ t.sp.val = 0 ∧ t.dt = 0#8 ∧ t.st = 0#8 ∧ t.pc = 0x200#16 ∧
      t.latch.faulted = false ∧ t.latch.cause = 0#3 ∧ t.latch.pc = 0#16 ∧ t.latch.word = 0#16 ∧ t.latch.info = 0#16 ∧
      t.font = s.font ∧ t.rndIn = s.rndIn ∧ t.rndCount = s.rndCount ∧ t.agenda = rest

/-- R31, R119, R120 of the power-on state: the values every piece of state has in `State.reset`. (The font bytes are
PRESUMED, log 2, and are not stated.) (The zeros are the spec's decisions D12 and D13.) -/
def Obligations.PowerOnStateIsTheResetState : Prop :=
  (∀ r, State.reset.getV r = 0#8) ∧ (∀ k : Fin 16, State.reset.stack[k] = 0#16) ∧
  (∀ k < 16, State.reset.keyDown k = false) ∧ (∀ x < 64, ∀ y < 32, State.reset.pixel x y = false) ∧
  (∀ a < 80, State.reset.readMem a = State.reset.font.toList.getD a 0#8) ∧
  (∀ a, 80 ≤ a → State.reset.readMem a = 0#8) ∧
  State.reset.i = 0#16 ∧ State.reset.sp.val = 0 ∧ State.reset.dt = 0#8 ∧ State.reset.st = 0#8 ∧
  State.reset.pc = 0x200#16 ∧ State.reset.ready ∧ State.reset.latch = FaultLatch.clear

/-- R35, R121, R122: an image of at most 3584 bytes, written by HostWriteMem at consecutive addresses from 0x200 after
power-on, is loaded by as many steps as it has bytes; it then stands at 0x200, every other address still holds its reset
contents, and everything else is as after reset. (The agenda: log 5.) -/
def Obligations.LoadedProgramEntryState : Prop :=
  ∀ bytes : List Byte, imageWellFormed bytes = true →
    ∃ t, Host.Core.run Sys2Proof.core bytes.length
        { State.reset with agenda := bytes.mapIdx (fun k b => .hostWriteMem (BitVec.ofNat 12 (0x200 + k)) b) } = .next t ∧
      (∀ k, (h : k < bytes.length) → t.readMem (0x200 + k) = bytes[k]) ∧
      (∀ a, a < 0x200 ∨ 0x200 + bytes.length ≤ a → t.readMem a = State.reset.readMem a) ∧
      t.pc = 0x200#16 ∧ unchangedBut [.mem] State.reset t

/-! ### Invariants -/

/-- Every step, whatever transaction it is, keeps memory in its canonical form (R27, R41; the form is the model's). -/
def Obligations.StepKeepsMemoryCanonical : Prop :=
  ∀ s t : State, memoryCanonical s → step s = .next t → memoryCanonical t

/-- Memory is canonical at reset. -/
def Obligations.ResetMemoryIsCanonical : Prop := memoryCanonical State.reset

/-- R126: every step keeps PC at most 0x10FE and every return address at most 0x1000. (A consequence the spec derives.) -/
def Obligations.StepKeepsPcBounded : Prop :=
  ∀ s t : State, pcBounded s → step s = .next t → pcBounded t

/-- The bounds of R126 hold at reset. -/
def Obligations.ResetPcIsBounded : Prop := pcBounded State.reset

/-- R25, R103, R104: every step keeps the latch clear while the core is ready, and, while it is halted, a true record of the
fault: the cause, the word, the info and `FAULT_PC` are those of the frozen state. (The latch is the spec's decision D7.) -/
def Obligations.StepKeepsLatchMeaning : Prop :=
  ∀ s t : State, latchMeaning s → step s = .next t → latchMeaning t

/-- At reset the core is ready and the latch is clear, so the latch invariant holds there. -/
def Obligations.ResetLatchIsClear : Prop :=
  State.reset.ready ∧ State.reset.latch = FaultLatch.clear ∧ latchMeaning State.reset

/-- R104, R109: once a fault is latched, no transaction but Reset changes the latch, PC, a register, the stack, a timer or
the display. (The spec's decision D8.) -/
def Obligations.OnlyResetEndsTheHalt : Prop :=
  ∀ s t : State, s.latch.faulted = true → (∀ rest, s.agenda ≠ .reset :: rest) → step s = .next t →
    t.pc = s.pc ∧ unchangedBut [.mem, .keys, .agenda] s t

/-- R19: every step keeps PC, and every return address, even where the jump, call or BNNN target of that step is even. That they
are even at reset is ResetPcIsEven. (A consequence the spec derives.) -/
def Obligations.EvenTargetsKeepPcEven : Prop :=
  ∀ s t : State, pcEven s → (∀ i, decode s.fetchWord = .ok i → evenTarget s i) → step s = .next t → pcEven t

/-! ### Whole-machine frames -/

/-- R12, R18, R21 to R24, R27 to R29: an instruction that completes changes only PC and the pieces of state its rule names.
(The frame rule is the spec's decision D15.) -/
def Obligations.InstructionsWriteOnlyTheirParts : Prop :=
  ∀ (i : Instr) (s : State), faultOf s i = none → ∃ t, exec i s = .next t ∧ unchangedBut (partsWritten i) s t

/-- R12, R16, R17: a register changes only as the destination of the instruction, and VF only so or as the flag of 8XY4,
8XY5, 8XY6, 8XY7, 8XYE and DXYN. (The frame rule is the spec's decision D15.) -/
def Obligations.InstructionsWriteOnlyTheirRegisters : Prop :=
  ∀ (i : Instr) (s : State), faultOf s i = none →
    ∃ t, exec i s = .next t ∧ ∀ r, ¬ registersWritten i r → t.getV r = s.getV r

/-- R50, R48: after a write to any of the 4096 addresses, that address reads as the byte written and every other as before.
(No write protection: the spec's decision D14.) -/
def Obligations.ReadGivesTheLatestWrite : Prop :=
  ∀ (s : State) (a : Nat) (b : Byte), a < 4096 →
    ∀ k, (s.writeMem a b).readMem k = if k = a then b else s.readMem k

/-- R52, R45: the bytes a store of FX55 puts at an address are what the next fetch from that address reads, high byte first.
(A consequence the spec derives.) -/
def Obligations.StoredWordIsTheWordFetched : Prop :=
  ∀ (x k k' : Nibble) (s : State), s.i.toNat + x.toNat < 4096 → k'.toNat = k.toNat + 1 → k'.toNat ≤ x.toNat →
    ∃ t, exec (.storeRegs x) s = .next t ∧
      ∀ u : State, u.mem = t.mem → u.font = t.font → u.pc.toNat = s.i.toNat + k.toNat →
        u.fetchWord = s.getV k ++ s.getV k'

/-! ### Control flow -/

/-- R63: NOP, the word 0x0000, only advances PC. -/
def Obligations.NopOnlyAdvancesPc : Prop :=
  encode .nop = 0x0000#16 ∧
  ∀ s : State, ∃ t, exec .nop s = .next t ∧ pcAdvanced s t ∧ unchangedBut [] s t

/-- R64: RET takes SP down and PC from the entry it then points at, leaving the entry; on an empty stack it raises
STACK_UNDERFLOW. (The entry that stays and what the fault leaves are the spec's decisions D16, D6 and D7.) -/
def Obligations.RetPopsOrUnderflows : Prop :=
  encode .ret = 0x00EE#16 ∧
  ∀ s : State,
    (∀ k : Fin 16, s.sp.val = k.val + 1 →
      ∃ t, exec .ret s = .next t ∧ t.sp.val = k.val ∧ t.pc = s.stack[k] ∧ unchangedBut [.sp] s t) ∧
    (s.sp.val = 0 → exec .ret s = .next (s.halted .stackUnderflow 0#16 0x00EE#16))

/-- R65: JP NNN sets PC to NNN and changes nothing else. (That an odd NNN is taken as it stands is the spec's decision D3, log 8;
what the next fetch reads there is JumpTargetIsFetchedNext.) -/
def Obligations.JumpSetsPc : Prop :=
  ∀ (nnn : Addr) (s : State), encode (.jp nnn) = 0x1000#16 ||| nnn.setWidth 16 ∧
    ∃ t, exec (.jp nnn) s = .next t ∧ t.pc.toNat = nnn.toNat ∧ unchangedBut [] s t

/-- R66: CALL NNN stores the address of the instruction after it at `STACK[SP]`, takes SP up and jumps; with sixteen return
addresses held it raises STACK_OVERFLOW. (What the fault leaves is the spec's decisions D6 and D7.) -/
def Obligations.CallPushesOrOverflows : Prop :=
  ∀ (nnn : Addr) (s : State), encode (.call nnn) = 0x2000#16 ||| nnn.setWidth 16 ∧
    (∀ k : Fin 16, s.sp.val = k.val →
      ∃ t, exec (.call nnn) s = .next t ∧ t.pc.toNat = nnn.toNat ∧ t.sp.val = s.sp.val + 1 ∧
        (t.stack[k]).toNat = (s.pc.toNat + 2) % 65536 ∧ (∀ j : Fin 16, j ≠ k → t.stack[j] = s.stack[j]) ∧
        unchangedBut [.stack, .sp] s t) ∧
    (s.sp.val = 16 → exec (.call nnn) s = .next (s.halted .stackOverflow 16#16 (encode (.call nnn))))

/-- R64, R66 together (95_test_vectors.md S8): a RET, from any state with the stack the CALL left, resumes after the CALL. -/
def Obligations.ReturnResumesAfterTheCall : Prop :=
  ∀ (nnn : Addr) (s : State), s.sp.val < 16 →
    ∃ t, exec (.call nnn) s = .next t ∧ ∀ u : State, u.stack = t.stack → u.sp = t.sp →
      ∃ q, exec .ret u = .next q ∧ q.pc.toNat = (s.pc.toNat + 2) % 65536 ∧ q.sp = s.sp

/-- R67, R68: the skips on an immediate move PC on by 4 when the condition holds and by 2 when not, and change nothing else. -/
def Obligations.ImmediateSkips : Prop :=
  ∀ (x : Nibble) (nn : Byte) (s : State),
    encode (.seImm x nn) = 0x3000#16 ||| x.setWidth 16 <<< 8 ||| nn.setWidth 16 ∧
    encode (.sneImm x nn) = 0x4000#16 ||| x.setWidth 16 <<< 8 ||| nn.setWidth 16 ∧
    (∃ t, exec (.seImm x nn) s = .next t ∧
      t.pc.toNat = (s.pc.toNat + if s.getV x = nn then 4 else 2) % 65536 ∧ unchangedBut [] s t) ∧
    (∃ t, exec (.sneImm x nn) s = .next t ∧
      t.pc.toNat = (s.pc.toNat + if s.getV x = nn then 2 else 4) % 65536 ∧ unchangedBut [] s t)

/-- R69, R70: the skips on two registers move PC on by 4 when the condition holds and by 2 when not, and change nothing else. -/
def Obligations.RegisterSkips : Prop :=
  ∀ (x y : Nibble) (s : State),
    encode (.seReg x y) = 0x5000#16 ||| x.setWidth 16 <<< 8 ||| y.setWidth 16 <<< 4 ∧
    encode (.sneReg x y) = 0x9000#16 ||| x.setWidth 16 <<< 8 ||| y.setWidth 16 <<< 4 ∧
    (∃ t, exec (.seReg x y) s = .next t ∧
      t.pc.toNat = (s.pc.toNat + if s.getV x = s.getV y then 4 else 2) % 65536 ∧ unchangedBut [] s t) ∧
    (∃ t, exec (.sneReg x y) s = .next t ∧
      t.pc.toNat = (s.pc.toNat + if s.getV x = s.getV y then 2 else 4) % 65536 ∧ unchangedBut [] s t)

/-- R71: BNNN sets PC to V[0] + NNN, not reduced to 12 bits, and nothing else. (Not reduced: the spec's decisions D4 and
D5.) -/
def Obligations.ComputedJumpAddsV0 : Prop :=
  ∀ (nnn : Addr) (s : State), encode (.jpV0 nnn) = 0xB000#16 ||| nnn.setWidth 16 ∧
    ∃ t, exec (.jpV0 nnn) s = .next t ∧ t.pc.toNat = (s.getV 0#4).toNat + nnn.toNat ∧ unchangedBut [] s t

/-! ### Register loads, arithmetic and logic -/

/-- R73, R75: the register loads. -/
def Obligations.RegisterLoads : Prop :=
  ∀ (x y : Nibble) (nn : Byte) (s : State),
    encode (.ldImm x nn) = 0x6000#16 ||| x.setWidth 16 <<< 8 ||| nn.setWidth 16 ∧
    encode (.ldReg x y) = 0x8000#16 ||| x.setWidth 16 <<< 8 ||| y.setWidth 16 <<< 4 ∧
    (∃ t, exec (.ldImm x nn) s = .next t ∧ t.getV x = nn ∧ registersUnchangedBut [x] s t ∧
      pcAdvanced s t ∧ unchangedBut [.v] s t) ∧
    (∃ t, exec (.ldReg x y) s = .next t ∧ t.getV x = s.getV y ∧ registersUnchangedBut [x] s t ∧
      pcAdvanced s t ∧ unchangedBut [.v] s t)

/-- R74: ADD Vx, NN wraps modulo 256 and sets no flag. -/
def Obligations.AddImmediateWrapsWithoutFlag : Prop :=
  ∀ (x : Nibble) (nn : Byte) (s : State),
    encode (.addImm x nn) = 0x7000#16 ||| x.setWidth 16 <<< 8 ||| nn.setWidth 16 ∧
    ∃ t, exec (.addImm x nn) s = .next t ∧ (t.getV x).toNat = ((s.getV x).toNat + nn.toNat) % 256 ∧
      registersUnchangedBut [x] s t ∧ pcAdvanced s t ∧ unchangedBut [.v] s t

/-- R76, R77, R78: the logic instructions, bit by bit; they set no flag. (That they leave VF, unless X = F, is the spec's decision
D15, log 14.) -/
def Obligations.LogicIsBitwiseWithoutFlag : Prop :=
  ∀ (x y : Nibble) (s : State),
    encode (.orReg x y) = 0x8001#16 ||| x.setWidth 16 <<< 8 ||| y.setWidth 16 <<< 4 ∧
    encode (.andReg x y) = 0x8002#16 ||| x.setWidth 16 <<< 8 ||| y.setWidth 16 <<< 4 ∧
    encode (.xorReg x y) = 0x8003#16 ||| x.setWidth 16 <<< 8 ||| y.setWidth 16 <<< 4 ∧
    (∃ t, exec (.orReg x y) s = .next t ∧
      (∀ k < 8, (t.getV x).getLsbD k = ((s.getV x).getLsbD k || (s.getV y).getLsbD k)) ∧
      registersUnchangedBut [x] s t ∧ pcAdvanced s t ∧ unchangedBut [.v] s t) ∧
    (∃ t, exec (.andReg x y) s = .next t ∧
      (∀ k < 8, (t.getV x).getLsbD k = ((s.getV x).getLsbD k && (s.getV y).getLsbD k)) ∧
      registersUnchangedBut [x] s t ∧ pcAdvanced s t ∧ unchangedBut [.v] s t) ∧
    (∃ t, exec (.xorReg x y) s = .next t ∧
      (∀ k < 8, (t.getV x).getLsbD k = ((s.getV x).getLsbD k != (s.getV y).getLsbD k)) ∧
      registersUnchangedBut [x] s t ∧ pcAdvanced s t ∧ unchangedBut [.v] s t)

/-- R79: ADD Vx, Vy; VF is the carry, and with X = F VF ends holding it. (The flag last: the spec's decision D9, log 10.) -/
def Obligations.AddRegistersWithCarry : Prop :=
  ∀ (x y : Nibble) (s : State),
    encode (.addReg x y) = 0x8004#16 ||| x.setWidth 16 <<< 8 ||| y.setWidth 16 <<< 4 ∧
    ∃ t, exec (.addReg x y) s = .next t ∧
      (t.getV 0xF#4).toNat = (if (s.getV x).toNat + (s.getV y).toNat ≥ 256 then 1 else 0) ∧
      (x ≠ 0xF#4 → (t.getV x).toNat = ((s.getV x).toNat + (s.getV y).toNat) % 256) ∧
      registersUnchangedBut [x, 0xF#4] s t ∧ pcAdvanced s t ∧ unchangedBut [.v] s t

/-- R80, R82: SUB and SUBN; VF is NOT borrow, 1 on equal operands, and with X = F VF ends holding it. (The flag last: the
spec's decision D9, log 10.) -/
def Obligations.SubtractWithNotBorrow : Prop :=
  ∀ (x y : Nibble) (s : State),
    encode (.subReg x y) = 0x8005#16 ||| x.setWidth 16 <<< 8 ||| y.setWidth 16 <<< 4 ∧
    encode (.subn x y) = 0x8007#16 ||| x.setWidth 16 <<< 8 ||| y.setWidth 16 <<< 4 ∧
    (∃ t, exec (.subReg x y) s = .next t ∧
      (t.getV 0xF#4).toNat = (if (s.getV x).toNat ≥ (s.getV y).toNat then 1 else 0) ∧
      (x ≠ 0xF#4 → ((t.getV x).toNat : Int) = (((s.getV x).toNat : Int) - (s.getV y).toNat) % 256) ∧
      registersUnchangedBut [x, 0xF#4] s t ∧ pcAdvanced s t ∧ unchangedBut [.v] s t) ∧
    (∃ t, exec (.subn x y) s = .next t ∧
      (t.getV 0xF#4).toNat = (if (s.getV y).toNat ≥ (s.getV x).toNat then 1 else 0) ∧
      (x ≠ 0xF#4 → ((t.getV x).toNat : Int) = (((s.getV y).toNat : Int) - (s.getV x).toNat) % 256) ∧
      registersUnchangedBut [x, 0xF#4] s t ∧ pcAdvanced s t ∧ unchangedBut [.v] s t)

/-- R81, R83: the shifts by one, of V[X] in place whatever Y is; VF is the bit shifted out, and with X = F VF ends holding
it. (The flag last: the spec's decision D9, log 10.) -/
def Obligations.ShiftsInPlaceIgnoreY : Prop :=
  ∀ (x y : Nibble) (s : State),
    encode (.shr x y) = 0x8006#16 ||| x.setWidth 16 <<< 8 ||| y.setWidth 16 <<< 4 ∧
    encode (.shl x y) = 0x800E#16 ||| x.setWidth 16 <<< 8 ||| y.setWidth 16 <<< 4 ∧
    (∃ t, exec (.shr x y) s = .next t ∧ (t.getV 0xF#4).toNat = (s.getV x).toNat % 2 ∧
      (x ≠ 0xF#4 → (t.getV x).toNat = (s.getV x).toNat / 2) ∧
      registersUnchangedBut [x, 0xF#4] s t ∧ pcAdvanced s t ∧ unchangedBut [.v] s t) ∧
    (∃ t, exec (.shl x y) s = .next t ∧ (t.getV 0xF#4).toNat = (s.getV x).toNat / 128 ∧
      (x ≠ 0xF#4 → (t.getV x).toNat = 2 * (s.getV x).toNat % 256) ∧
      registersUnchangedBut [x, 0xF#4] s t ∧ pcAdvanced s t ∧ unchangedBut [.v] s t)

/-- R33, R84: CXNN puts the step's random byte, masked by NN, into V[X]: any byte the environment delivers, and an unknown one
(`Config.freeRandom`) when it has fixed none. The queue of bytes and the count are the model's own (log 1). -/
def Obligations.RandomIsAnyByteMasked : Prop :=
  ∀ (x : Nibble) (nn : Byte) (s : State),
    encode (.rnd x nn) = 0xC000#16 ||| x.setWidth 16 <<< 8 ||| nn.setWidth 16 ∧
    ∃ t, exec (.rnd x nn) s = .next t ∧
      (∀ b rest, s.rndIn = b :: rest → t.rndIn = rest ∧
        ∀ k < 8, (t.getV x).getLsbD k = (b.getLsbD k && nn.getLsbD k)) ∧
      (s.rndIn = [] → t.rndIn = [] ∧
        ∀ k < 8, (t.getV x).getLsbD k = ((Config.freeRandom s.rndCount).getLsbD k && nn.getLsbD k)) ∧
      t.rndCount = s.rndCount + 1 ∧
      registersUnchangedBut [x] s t ∧ pcAdvanced s t ∧ unchangedBut [.v, .random] s t

/-! ### The address register and memory -/

/-- R86, R87: ANNN and FX1E write I, the sum modulo 2^16, and no flag. (No flag for FX1E: the spec's decision D15.) -/
def Obligations.IndexLoadAndAdd : Prop :=
  ∀ (nnn : Addr) (x : Nibble) (s : State),
    encode (.ldI nnn) = 0xA000#16 ||| nnn.setWidth 16 ∧ encode (.addI x) = 0xF01E#16 ||| x.setWidth 16 <<< 8 ∧
    (∃ t, exec (.ldI nnn) s = .next t ∧ t.i.toNat = nnn.toNat ∧ pcAdvanced s t ∧ unchangedBut [.i] s t) ∧
    (∃ t, exec (.addI x) s = .next t ∧ t.i.toNat = (s.i.toNat + (s.getV x).toNat) % 65536 ∧
      pcAdvanced s t ∧ unchangedBut [.i] s t)

/-- R88: FX29 sets I to five times a digit of at most 15; above 15 it raises FONT_DIGIT with the digit. (The fault: the
spec's decision D26, log 11.) -/
def Obligations.FontAddressOrFault : Prop :=
  ∀ (x : Nibble) (s : State), encode (.ldF x) = 0xF029#16 ||| x.setWidth 16 <<< 8 ∧
    ((s.getV x).toNat ≤ 15 →
      ∃ t, exec (.ldF x) s = .next t ∧ t.i.toNat = 5 * (s.getV x).toNat ∧ pcAdvanced s t ∧ unchangedBut [.i] s t) ∧
    (15 < (s.getV x).toNat →
      exec (.ldF x) s = .next (s.halted .fontDigit ((s.getV x).setWidth 16) (encode (.ldF x))))

/-- R89: FX33 stores the decimal digits of V[X] at I, I + 1, I + 2, leaving I and every other byte; when one of the three
addresses is 4096 or more it raises MEM_OOB with the lowest such address and stores nothing. (The bounds and what the fault
leaves: the spec's decisions D5 and D6.) -/
def Obligations.BcdStoresThreeDigits : Prop :=
  ∀ (x : Nibble) (s : State), encode (.ldB x) = 0xF033#16 ||| x.setWidth 16 <<< 8 ∧
    (s.i.toNat + 2 < 4096 →
      ∃ t, exec (.ldB x) s = .next t ∧
        (t.readMem s.i.toNat).toNat = (s.getV x).toNat / 100 ∧
        (t.readMem (s.i.toNat + 1)).toNat = (s.getV x).toNat / 10 % 10 ∧
        (t.readMem (s.i.toNat + 2)).toNat = (s.getV x).toNat % 10 ∧
        (∀ a, a < s.i.toNat ∨ s.i.toNat + 2 < a → t.readMem a = s.readMem a) ∧
        pcAdvanced s t ∧ unchangedBut [.mem] s t) ∧
    (4096 ≤ s.i.toNat + 2 →
      exec (.ldB x) s = .next (s.halted .memOob (BitVec.ofNat 16 (max s.i.toNat 4096)) (encode (.ldB x))))

/-- R90: FX55 stores V[0] to V[X] from I on, leaving I and every other byte; when `I + X >= 4096` it raises MEM_OOB with the
lowest address outside and stores nothing. (The bounds, what the fault leaves, and I: the spec's decisions D5, D6 and D15.) -/
def Obligations.RegisterSave : Prop :=
  ∀ (x : Nibble) (s : State), encode (.storeRegs x) = 0xF055#16 ||| x.setWidth 16 <<< 8 ∧
    (s.i.toNat + x.toNat < 4096 →
      ∃ t, exec (.storeRegs x) s = .next t ∧
        (∀ r : Nibble, r.toNat ≤ x.toNat → t.readMem (s.i.toNat + r.toNat) = s.getV r) ∧
        (∀ a, a < s.i.toNat ∨ s.i.toNat + x.toNat < a → t.readMem a = s.readMem a) ∧
        pcAdvanced s t ∧ unchangedBut [.mem] s t) ∧
    (4096 ≤ s.i.toNat + x.toNat →
      exec (.storeRegs x) s =
        .next (s.halted .memOob (BitVec.ofNat 16 (max s.i.toNat 4096)) (encode (.storeRegs x))))

/-- R91: FX65 loads V[0] to V[X] from I on, leaving I, memory and the other registers; when `I + X >= 4096` it raises
MEM_OOB with the lowest address outside and loads nothing. (The bounds, what the fault leaves, and I: the spec's decisions
D5, D6 and D15.) -/
def Obligations.RegisterLoad : Prop :=
  ∀ (x : Nibble) (s : State), encode (.loadRegs x) = 0xF065#16 ||| x.setWidth 16 <<< 8 ∧
    (s.i.toNat + x.toNat < 4096 →
      ∃ t, exec (.loadRegs x) s = .next t ∧
        (∀ r : Nibble, t.getV r = if r.toNat ≤ x.toNat then s.readMem (s.i.toNat + r.toNat) else s.getV r) ∧
        pcAdvanced s t ∧ unchangedBut [.v] s t) ∧
    (4096 ≤ s.i.toNat + x.toNat →
      exec (.loadRegs x) s =
        .next (s.halted .memOob (BitVec.ofNat 16 (max s.i.toNat 4096)) (encode (.loadRegs x))))

/-! ### The display -/

/-- R92: CLS turns every pixel off and changes nothing else. -/
def Obligations.ClearTurnsEveryPixelOff : Prop :=
  encode .cls = 0x00E0#16 ∧
  ∀ s : State, ∃ t, exec .cls s = .next t ∧ (∀ x < 64, ∀ y < 32, t.pixel x y = false) ∧
    pcAdvanced s t ∧ unchangedBut [.disp] s t

/-- R93, R95, with the bit order of R94 (PRESUMED by the spec, log 13): DXYN toggles exactly the pixels that a set sprite
bit falls on, each coordinate wrapped; VF is 1 exactly when one of them was on, and 0 otherwise, N = 0 included; when a row
lies at 4096 or above it raises MEM_OOB with the lowest such address, and neither a pixel nor VF changes. (The bounds and
what the fault leaves: the spec's decisions D5 and D6.) -/
def Obligations.DrawTogglesTheSprite : Prop :=
  ∀ (x y n : Nibble) (s : State),
    encode (.drw x y n) = 0xD000#16 ||| x.setWidth 16 <<< 8 ||| y.setWidth 16 <<< 4 ||| n.setWidth 16 ∧
    (n.toNat = 0 ∨ s.i.toNat + n.toNat - 1 < 4096 →
      ∃ t, exec (.drw x y n) s = .next t ∧
        (∀ px < 64, ∀ py < 32,
          (spriteCovers s x y n px py → t.pixel px py = !s.pixel px py) ∧
          (¬ spriteCovers s x y n px py → t.pixel px py = s.pixel px py)) ∧
        ((∃ px < 64, ∃ py < 32, spriteCovers s x y n px py ∧ s.pixel px py = true) → t.getV 0xF#4 = 1#8) ∧
        ((∀ px < 64, ∀ py < 32, spriteCovers s x y n px py → s.pixel px py = false) → t.getV 0xF#4 = 0#8) ∧
        registersUnchangedBut [0xF#4] s t ∧ pcAdvanced s t ∧ unchangedBut [.v, .disp] s t) ∧
    (0 < n.toNat → 4096 ≤ s.i.toNat + n.toNat - 1 →
      exec (.drw x y n) s =
        .next (s.halted .memOob (BitVec.ofNat 16 (max s.i.toNat 4096)) (encode (.drw x y n))))

/-- S6 and R93, R95: drawing the same sprite twice restores the display, and the second draw reports a collision exactly
when the sprite has a set bit. (The operands are kept off VF, which the first draw writes.) -/
def Obligations.DrawingTwiceRestoresTheDisplay : Prop :=
  ∀ (x y n : Nibble) (s : State), x ≠ 0xF#4 → y ≠ 0xF#4 → s.i.toNat + n.toNat ≤ 4096 →
    s.disp = 0#2048 →
    ∃ t u, exec (.drw x y n) s = .next t ∧ exec (.drw x y n) t = .next u ∧ u.disp = s.disp ∧
      t.getV 0xF#4 = 0#8 ∧
      (u.getV 0xF#4 = 1#8 ↔ ∃ r < n.toNat, s.readMem (s.i.toNat + r) ≠ 0#8)

/-! ### Keys and timers -/

/-- R96, R97: the key skips move PC on by 4 when the condition holds and by 2 when not, and change nothing else; a key index
above 15 raises KEY_INDEX with it. (What the fault leaves and its code: the spec's decisions D6 and D7.) -/
def Obligations.KeySkips : Prop :=
  ∀ (x : Nibble) (s : State),
    encode (.skp x) = 0xE09E#16 ||| x.setWidth 16 <<< 8 ∧ encode (.sknp x) = 0xE0A1#16 ||| x.setWidth 16 <<< 8 ∧
    ((s.getV x).toNat ≤ 15 →
      (∃ t, exec (.skp x) s = .next t ∧
        t.pc.toNat = (s.pc.toNat + if s.keys.getLsbD (s.getV x).toNat then 4 else 2) % 65536 ∧
        unchangedBut [] s t) ∧
      (∃ t, exec (.sknp x) s = .next t ∧
        t.pc.toNat = (s.pc.toNat + if s.keys.getLsbD (s.getV x).toNat then 2 else 4) % 65536 ∧
        unchangedBut [] s t)) ∧
    (15 < (s.getV x).toNat →
      exec (.skp x) s = .next (s.halted .keyIndex ((s.getV x).setWidth 16) (encode (.skp x))) ∧
      exec (.sknp x) s = .next (s.halted .keyIndex ((s.getV x).setWidth 16) (encode (.sknp x))))

/-- R99: FX0A with a key down puts the lowest pressed key into V[X] and goes on; with none down it completes with PC back on
itself and changes nothing at all. -/
def Obligations.KeyWaitTakesTheLowestKeyOrRedoes : Prop :=
  ∀ (x : Nibble) (s : State), encode (.ldVxK x) = 0xF00A#16 ||| x.setWidth 16 <<< 8 ∧
    (∀ k : Nat, k < 16 → s.keys.getLsbD k = true → (∀ j < k, s.keys.getLsbD j = false) →
      ∃ t, exec (.ldVxK x) s = .next t ∧ (t.getV x).toNat = k ∧ registersUnchangedBut [x] s t ∧
        pcAdvanced s t ∧ unchangedBut [.v] s t) ∧
    ((∀ k < 16, s.keys.getLsbD k = false) → exec (.ldVxK x) s = .next s)

/-- R98: FX07 copies DT into V[X] and leaves DT. -/
def Obligations.DelayTimerRead : Prop :=
  ∀ (x : Nibble) (s : State), encode (.ldVxDt x) = 0xF007#16 ||| x.setWidth 16 <<< 8 ∧
    ∃ t, exec (.ldVxDt x) s = .next t ∧ t.getV x = s.dt ∧ registersUnchangedBut [x] s t ∧
      pcAdvanced s t ∧ unchangedBut [.v] s t

/-- R100, R101: FX15 and FX18 copy V[X] into DT and into ST. -/
def Obligations.TimerWrites : Prop :=
  ∀ (x : Nibble) (s : State),
    encode (.ldDtVx x) = 0xF015#16 ||| x.setWidth 16 <<< 8 ∧ encode (.ldStVx x) = 0xF018#16 ||| x.setWidth 16 <<< 8 ∧
    (∃ t, exec (.ldDtVx x) s = .next t ∧ t.dt = s.getV x ∧ pcAdvanced s t ∧ unchangedBut [.dt] s t) ∧
    (∃ t, exec (.ldStVx x) s = .next t ∧ t.st = s.getV x ∧ toneOutput t = (s.getV x != 0#8) ∧
      pcAdvanced s t ∧ unchangedBut [.st] s t)

/-! ### Companions of the statements above -/

/-- PC and every return address are even at reset (R19, R119), the start that EvenTargetsKeepPcEven goes on from. (The zero
return addresses: log 4.) -/
def Obligations.ResetPcIsEven : Prop := pcEven State.reset

/-- R65 with R46 and R55: after a JP NNN of a ready core the next Step, one that nobody scheduled or one on the agenda (log 5),
runs the instruction in the two bytes at NNN and NNN + 1, odd NNN included; and after a JP 0xFFF it raises FETCH_OOB with
`FAULT_INFO = 0x1000`. (That odd addresses are fetched is the spec's decision D3, log 8; the fault is its decision D5, log 9.) -/
def Obligations.JumpTargetIsFetchedNext : Prop :=
  ∀ (nnn : Addr) (s : State), s.ready → ∃ t, exec (.jp nnn) s = .next t ∧
    (∀ i, nnn.toNat + 1 < 4096 → decode (s.readMem nnn.toNat ++ s.readMem (nnn.toNat + 1)) = .ok i →
      (s.agenda = [] → step t = exec i t) ∧
      (∀ rest, s.agenda = .step :: rest → step t = exec i { t with agenda := rest })) ∧
    (nnn = 0xFFF#12 →
      (s.agenda = [] → step t = .next (t.halted .fetchOob 0x1000#16 0#16)) ∧
      (∀ rest, s.agenda = .step :: rest →
        step t = .next ({ t with agenda := rest }.halted .fetchOob 0x1000#16 0#16)))
end

