-- ==== Sys2Proof/Laws/Decode.lean ====
section
/-! SUPPORT. The fields of a word and the layouts of R57 as numbers, each said once: a packed word is the sum of its shifted
fields, and each field of a packed word is the field that was packed. -/

namespace Sys2Proof

/-! ### The value of a field and of a packed word -/

theorem append_toNat {m n : Nat} (a : BitVec m) (b : BitVec n) : (a ++ b).toNat = a.toNat * 2 ^ n + b.toNat := by
  rw [BitVec.toNat_append, ← Nat.shiftLeft_add_eq_or_of_lt b.isLt, Nat.shiftLeft_eq]

theorem fieldD1_toNat (w : Word) : (fieldD1 w).toNat = w.toNat / 4096 := by
  have := w.isLt
  simp [fieldD1, BitVec.extractLsb'_toNat, Nat.shiftRight_eq_div_pow]; omega

theorem fieldX_toNat (w : Word) : (fieldX w).toNat = w.toNat / 256 % 16 := by
  simp [fieldX, BitVec.extractLsb'_toNat, Nat.shiftRight_eq_div_pow]

theorem fieldY_toNat (w : Word) : (fieldY w).toNat = w.toNat / 16 % 16 := by
  simp [fieldY, BitVec.extractLsb'_toNat, Nat.shiftRight_eq_div_pow]

theorem fieldN_toNat (w : Word) : (fieldN w).toNat = w.toNat % 16 := by
  simp [fieldN]

theorem fieldNN_toNat (w : Word) : (fieldNN w).toNat = w.toNat % 256 := by
  simp [fieldNN]

theorem fieldNNN_toNat (w : Word) : (fieldNNN w).toNat = w.toNat % 4096 := by
  simp [fieldNNN]

theorem packAddr_toNat (d : Nibble) (nnn : Addr) : (packAddr d nnn).toNat = d.toNat * 4096 + nnn.toNat :=
  append_toNat d nnn

theorem packRegImm_toNat (d x : Nibble) (nn : Byte) :
    (packRegImm d x nn).toNat = d.toNat * 4096 + x.toNat * 256 + nn.toNat := by
  have h : (packRegImm d x nn).toNat = (d ++ x : BitVec 8).toNat * 2 ^ 8 + nn.toNat := append_toNat (d ++ x : BitVec 8) nn
  have h' : (d ++ x : BitVec 8).toNat = d.toNat * 2 ^ 4 + x.toNat := append_toNat d x
  rw [h, h']
  ring

theorem packRegReg_toNat (d x y n : Nibble) :
    (packRegReg d x y n).toNat = d.toNat * 4096 + x.toNat * 256 + y.toNat * 16 + n.toNat := by
  have h : (packRegReg d x y n).toNat = (d ++ x : BitVec 8).toNat * 2 ^ 8 + (y ++ n : BitVec 8).toNat :=
    append_toNat (d ++ x : BitVec 8) (y ++ n : BitVec 8)
  have h' : (d ++ x : BitVec 8).toNat = d.toNat * 2 ^ 4 + x.toNat := append_toNat d x
  have h'' : (y ++ n : BitVec 8).toNat = y.toNat * 2 ^ 4 + n.toNat := append_toNat y n
  rw [h, h', h'']
  ring

/-- The word of two bytes: the first is the high byte (R45). -/
theorem wordOfBytes_toNat (hi lo : Byte) : (wordOfBytes hi lo).toNat = hi.toNat * 256 + lo.toNat :=
  append_toNat hi lo

theorem highByte_toNat (w : Word) : (highByte w).toNat = w.toNat / 256 := by
  have := w.isLt
  simp [highByte, BitVec.extractLsb'_toNat, Nat.shiftRight_eq_div_pow]; omega

theorem lowByte_toNat (w : Word) : (lowByte w).toNat = w.toNat % 256 := by
  simp [lowByte]

/-- Laying a word out as two bytes and composing them again loses nothing (R45). -/
@[simp] theorem wordOfBytes_highByte_lowByte (w : Word) : wordOfBytes (highByte w) (lowByte w) = w := by
  apply BitVec.eq_of_toNat_eq
  rw [wordOfBytes_toNat, highByte_toNat, lowByte_toNat]
  omega

/-! ### Every field of every layout -/

@[simp] theorem fieldD1_packAddr (d : Nibble) (nnn : Addr) : fieldD1 (packAddr d nnn) = d := by
  apply BitVec.eq_of_toNat_eq
  rw [fieldD1_toNat, packAddr_toNat]; omega

@[simp] theorem fieldNNN_packAddr (d : Nibble) (nnn : Addr) : fieldNNN (packAddr d nnn) = nnn := by
  apply BitVec.eq_of_toNat_eq
  rw [fieldNNN_toNat, packAddr_toNat]; omega

@[simp] theorem fieldD1_packRegImm (d x : Nibble) (nn : Byte) : fieldD1 (packRegImm d x nn) = d := by
  apply BitVec.eq_of_toNat_eq
  rw [fieldD1_toNat, packRegImm_toNat]; omega

@[simp] theorem fieldX_packRegImm (d x : Nibble) (nn : Byte) : fieldX (packRegImm d x nn) = x := by
  apply BitVec.eq_of_toNat_eq
  rw [fieldX_toNat, packRegImm_toNat]; omega

@[simp] theorem fieldNN_packRegImm (d x : Nibble) (nn : Byte) : fieldNN (packRegImm d x nn) = nn := by
  apply BitVec.eq_of_toNat_eq
  rw [fieldNN_toNat, packRegImm_toNat]; omega

@[simp] theorem fieldD1_packRegReg (d x y n : Nibble) : fieldD1 (packRegReg d x y n) = d := by
  apply BitVec.eq_of_toNat_eq
  rw [fieldD1_toNat, packRegReg_toNat]; omega

@[simp] theorem fieldX_packRegReg (d x y n : Nibble) : fieldX (packRegReg d x y n) = x := by
  apply BitVec.eq_of_toNat_eq
  rw [fieldX_toNat, packRegReg_toNat]; omega

@[simp] theorem fieldY_packRegReg (d x y n : Nibble) : fieldY (packRegReg d x y n) = y := by
  apply BitVec.eq_of_toNat_eq
  rw [fieldY_toNat, packRegReg_toNat]; omega

@[simp] theorem fieldN_packRegReg (d x y n : Nibble) : fieldN (packRegReg d x y n) = n := by
  apply BitVec.eq_of_toNat_eq
  rw [fieldN_toNat, packRegReg_toNat]; omega

/-! ### A packed word is determined by its fields -/

/-- A word is its `ADDR` layout. -/
theorem packAddr_fields (w : Word) : packAddr (fieldD1 w) (fieldNNN w) = w := by
  apply BitVec.eq_of_toNat_eq
  rw [packAddr_toNat, fieldD1_toNat, fieldNNN_toNat]; omega

/-- A word is its `REG_IMM` layout. -/
theorem packRegImm_fields (w : Word) : packRegImm (fieldD1 w) (fieldX w) (fieldNN w) = w := by
  apply BitVec.eq_of_toNat_eq
  rw [packRegImm_toNat, fieldD1_toNat, fieldX_toNat, fieldNN_toNat]; omega

/-- A word is its `REG_REG` layout. -/
theorem packRegReg_fields (w : Word) : packRegReg (fieldD1 w) (fieldX w) (fieldY w) (fieldN w) = w := by
  apply BitVec.eq_of_toNat_eq
  rw [packRegReg_toNat, fieldD1_toNat, fieldX_toNat, fieldY_toNat, fieldN_toNat]; omega

/-! ### The rules' "Encoding" lines: a packed word as an OR of shifted fields -/

theorem packAddr_eq_or (d : Nibble) (nnn : Addr) :
    packAddr d nnn = BitVec.ofNat 16 (d.toNat * 4096) ||| nnn.setWidth 16 := by
  apply BitVec.eq_of_toNat_eq
  rw [packAddr_toNat, BitVec.toNat_or]
  have h1 := d.isLt
  have h2 := nnn.isLt
  rw [BitVec.toNat_ofNat, BitVec.toNat_setWidth, Nat.mod_eq_of_lt (a := d.toNat * 4096) (by omega),
    Nat.mod_eq_of_lt (a := nnn.toNat) (by omega)]
  exact Nat.shiftLeft_eq d.toNat 12 ▸ Nat.shiftLeft_add_eq_or_of_lt h2 d.toNat

theorem packRegImm_eq_or (d x : Nibble) (nn : Byte) :
    packRegImm d x nn = BitVec.ofNat 16 (d.toNat * 4096) ||| x.setWidth 16 <<< 8 ||| nn.setWidth 16 := by
  apply BitVec.eq_of_toNat_eq
  have h1 := d.isLt
  have h2 := x.isLt
  have h3 := nn.isLt
  have e1 : (d.toNat * 4096) ||| (x.toNat * 256) = d.toNat * 4096 + x.toNat * 256 :=
    (Nat.shiftLeft_eq d.toNat 12 ▸ Nat.shiftLeft_add_eq_or_of_lt (b := x.toNat * 256) (i := 12) (by omega) d.toNat).symm
  have e2 : (d.toNat * 16 + x.toNat) * 256 ||| nn.toNat = (d.toNat * 16 + x.toNat) * 256 + nn.toNat :=
    (Nat.shiftLeft_eq (d.toNat * 16 + x.toNat) 8 ▸ Nat.shiftLeft_add_eq_or_of_lt (i := 8) h3 (d.toNat * 16 + x.toNat)).symm
  have e3 : (d.toNat * 16 + x.toNat) * 256 = d.toNat * 4096 + x.toNat * 256 := by omega
  rw [e3] at e2
  rw [packRegImm_toNat, BitVec.toNat_or, BitVec.toNat_or, BitVec.toNat_shiftLeft, BitVec.toNat_ofNat,
    BitVec.toNat_setWidth, BitVec.toNat_setWidth, Nat.shiftLeft_eq, Nat.mod_eq_of_lt (a := d.toNat * 4096) (by omega),
    Nat.mod_eq_of_lt (a := x.toNat) (by omega), Nat.mod_eq_of_lt (a := x.toNat * 2 ^ 8) (by omega),
    Nat.mod_eq_of_lt (a := nn.toNat) (by omega), e1, e2]

theorem packRegReg_eq_or (d x y n : Nibble) :
    packRegReg d x y n =
      BitVec.ofNat 16 (d.toNat * 4096) ||| x.setWidth 16 <<< 8 ||| y.setWidth 16 <<< 4 ||| n.setWidth 16 := by
  have h0 : packRegReg d x y n = packRegImm d x (BitVec.ofNat 8 (y.toNat * 16 + n.toNat)) := by
    apply BitVec.eq_of_toNat_eq
    rw [packRegReg_toNat, packRegImm_toNat, BitVec.toNat_ofNat]
    have := y.isLt
    have := n.isLt
    omega
  have h1 : (BitVec.ofNat 8 (y.toNat * 16 + n.toNat)).setWidth 16 = y.setWidth 16 <<< 4 ||| n.setWidth 16 := by
    apply BitVec.eq_of_toNat_eq
    have := y.isLt
    have hn := n.isLt
    rw [BitVec.toNat_or, BitVec.toNat_shiftLeft, BitVec.toNat_setWidth, BitVec.toNat_setWidth, BitVec.toNat_setWidth,
      BitVec.toNat_ofNat, Nat.shiftLeft_eq, Nat.mod_eq_of_lt (a := y.toNat) (by omega),
      Nat.mod_eq_of_lt (a := y.toNat * 2 ^ 4) (by omega), Nat.mod_eq_of_lt (a := n.toNat) (by omega),
      Nat.mod_eq_of_lt (a := y.toNat * 16 + n.toNat) (by omega), Nat.mod_eq_of_lt (by omega)]
    exact Nat.shiftLeft_eq y.toNat 4 ▸ Nat.shiftLeft_add_eq_or_of_lt hn y.toNat
  rw [h0, packRegImm_eq_or, h1, BitVec.or_assoc, BitVec.or_assoc, BitVec.or_assoc]

/-! ### What the decoder answers -/

/-- The only error of the decoder is that the word is unrecognized, and it names that word (R59). -/
theorem decode_error (w : Word) (e : DecodeError) (h : decode w = .error e) : e = .unrecognized w := by
  unfold decode decodeSystem decodeAlu decodeKey decodeMisc at h
  repeat' split at h
  all_goals first | (cases h; done) | (cases h; rfl)

end Sys2Proof
end

