-- ==== Sys2Proof/Laws/State.lean ====
section
/-! SUPPORT. One lemma per field and per update of the state: what the shared updates leave, what they write, and what
a register or a memory byte reads as after them. -/

namespace Sys2Proof.Machine

/-! ### setV -/

@[simp] theorem State.setV_i (s : State) (x : Nibble) (b : Byte) : (s.setV x b).i = s.i := rfl
@[simp] theorem State.setV_pc (s : State) (x : Nibble) (b : Byte) : (s.setV x b).pc = s.pc := rfl
@[simp] theorem State.setV_stack (s : State) (x : Nibble) (b : Byte) : (s.setV x b).stack = s.stack := rfl
@[simp] theorem State.setV_sp (s : State) (x : Nibble) (b : Byte) : (s.setV x b).sp = s.sp := rfl
@[simp] theorem State.setV_dt (s : State) (x : Nibble) (b : Byte) : (s.setV x b).dt = s.dt := rfl
@[simp] theorem State.setV_st (s : State) (x : Nibble) (b : Byte) : (s.setV x b).st = s.st := rfl
@[simp] theorem State.setV_latch (s : State) (x : Nibble) (b : Byte) : (s.setV x b).latch = s.latch := rfl
@[simp] theorem State.setV_font (s : State) (x : Nibble) (b : Byte) : (s.setV x b).font = s.font := rfl
@[simp] theorem State.setV_mem (s : State) (x : Nibble) (b : Byte) : (s.setV x b).mem = s.mem := rfl
@[simp] theorem State.setV_disp (s : State) (x : Nibble) (b : Byte) : (s.setV x b).disp = s.disp := rfl
@[simp] theorem State.setV_keys (s : State) (x : Nibble) (b : Byte) : (s.setV x b).keys = s.keys := rfl
@[simp] theorem State.setV_rndIn (s : State) (x : Nibble) (b : Byte) : (s.setV x b).rndIn = s.rndIn := rfl
@[simp] theorem State.setV_rndCount (s : State) (x : Nibble) (b : Byte) : (s.setV x b).rndCount = s.rndCount := rfl
@[simp] theorem State.setV_agenda (s : State) (x : Nibble) (b : Byte) : (s.setV x b).agenda = s.agenda := rfl
@[simp] theorem State.readMem_setV (s : State) (x : Nibble) (b : Byte) (k : Nat) : (s.setV x b).readMem k = s.readMem k := rfl

/-! ### setI -/

@[simp] theorem State.setI_v (s : State) (w : Word) : (s.setI w).v = s.v := rfl
@[simp] theorem State.setI_pc (s : State) (w : Word) : (s.setI w).pc = s.pc := rfl
@[simp] theorem State.setI_stack (s : State) (w : Word) : (s.setI w).stack = s.stack := rfl
@[simp] theorem State.setI_sp (s : State) (w : Word) : (s.setI w).sp = s.sp := rfl
@[simp] theorem State.setI_dt (s : State) (w : Word) : (s.setI w).dt = s.dt := rfl
@[simp] theorem State.setI_st (s : State) (w : Word) : (s.setI w).st = s.st := rfl
@[simp] theorem State.setI_latch (s : State) (w : Word) : (s.setI w).latch = s.latch := rfl
@[simp] theorem State.setI_font (s : State) (w : Word) : (s.setI w).font = s.font := rfl
@[simp] theorem State.setI_mem (s : State) (w : Word) : (s.setI w).mem = s.mem := rfl
@[simp] theorem State.setI_disp (s : State) (w : Word) : (s.setI w).disp = s.disp := rfl
@[simp] theorem State.setI_keys (s : State) (w : Word) : (s.setI w).keys = s.keys := rfl
@[simp] theorem State.setI_rndIn (s : State) (w : Word) : (s.setI w).rndIn = s.rndIn := rfl
@[simp] theorem State.setI_rndCount (s : State) (w : Word) : (s.setI w).rndCount = s.rndCount := rfl
@[simp] theorem State.setI_agenda (s : State) (w : Word) : (s.setI w).agenda = s.agenda := rfl
@[simp] theorem State.setI_i (s : State) (w : Word) : (s.setI w).i = w := rfl
@[simp] theorem State.readMem_setI (s : State) (w : Word) (k : Nat) : (s.setI w).readMem k = s.readMem k := rfl
@[simp] theorem State.getV_setI (s : State) (w : Word) (r : Nibble) : (s.setI w).getV r = s.getV r := rfl

/-! ### setPc -/

@[simp] theorem State.setPc_v (s : State) (w : Word) : (s.setPc w).v = s.v := rfl
@[simp] theorem State.setPc_i (s : State) (w : Word) : (s.setPc w).i = s.i := rfl
@[simp] theorem State.setPc_stack (s : State) (w : Word) : (s.setPc w).stack = s.stack := rfl
@[simp] theorem State.setPc_sp (s : State) (w : Word) : (s.setPc w).sp = s.sp := rfl
@[simp] theorem State.setPc_dt (s : State) (w : Word) : (s.setPc w).dt = s.dt := rfl
@[simp] theorem State.setPc_st (s : State) (w : Word) : (s.setPc w).st = s.st := rfl
@[simp] theorem State.setPc_latch (s : State) (w : Word) : (s.setPc w).latch = s.latch := rfl
@[simp] theorem State.setPc_font (s : State) (w : Word) : (s.setPc w).font = s.font := rfl
@[simp] theorem State.setPc_mem (s : State) (w : Word) : (s.setPc w).mem = s.mem := rfl
@[simp] theorem State.setPc_disp (s : State) (w : Word) : (s.setPc w).disp = s.disp := rfl
@[simp] theorem State.setPc_keys (s : State) (w : Word) : (s.setPc w).keys = s.keys := rfl
@[simp] theorem State.setPc_rndIn (s : State) (w : Word) : (s.setPc w).rndIn = s.rndIn := rfl
@[simp] theorem State.setPc_rndCount (s : State) (w : Word) : (s.setPc w).rndCount = s.rndCount := rfl
@[simp] theorem State.setPc_agenda (s : State) (w : Word) : (s.setPc w).agenda = s.agenda := rfl
@[simp] theorem State.setPc_pc (s : State) (w : Word) : (s.setPc w).pc = w := rfl
@[simp] theorem State.readMem_setPc (s : State) (w : Word) (k : Nat) : (s.setPc w).readMem k = s.readMem k := rfl
@[simp] theorem State.getV_setPc (s : State) (w : Word) (r : Nibble) : (s.setPc w).getV r = s.getV r := rfl

/-! ### setDt -/

@[simp] theorem State.setDt_v (s : State) (b : Byte) : (s.setDt b).v = s.v := rfl
@[simp] theorem State.setDt_i (s : State) (b : Byte) : (s.setDt b).i = s.i := rfl
@[simp] theorem State.setDt_pc (s : State) (b : Byte) : (s.setDt b).pc = s.pc := rfl
@[simp] theorem State.setDt_stack (s : State) (b : Byte) : (s.setDt b).stack = s.stack := rfl
@[simp] theorem State.setDt_sp (s : State) (b : Byte) : (s.setDt b).sp = s.sp := rfl
@[simp] theorem State.setDt_st (s : State) (b : Byte) : (s.setDt b).st = s.st := rfl
@[simp] theorem State.setDt_latch (s : State) (b : Byte) : (s.setDt b).latch = s.latch := rfl
@[simp] theorem State.setDt_font (s : State) (b : Byte) : (s.setDt b).font = s.font := rfl
@[simp] theorem State.setDt_mem (s : State) (b : Byte) : (s.setDt b).mem = s.mem := rfl
@[simp] theorem State.setDt_disp (s : State) (b : Byte) : (s.setDt b).disp = s.disp := rfl
@[simp] theorem State.setDt_keys (s : State) (b : Byte) : (s.setDt b).keys = s.keys := rfl
@[simp] theorem State.setDt_rndIn (s : State) (b : Byte) : (s.setDt b).rndIn = s.rndIn := rfl
@[simp] theorem State.setDt_rndCount (s : State) (b : Byte) : (s.setDt b).rndCount = s.rndCount := rfl
@[simp] theorem State.setDt_agenda (s : State) (b : Byte) : (s.setDt b).agenda = s.agenda := rfl
@[simp] theorem State.setDt_dt (s : State) (b : Byte) : (s.setDt b).dt = b := rfl
@[simp] theorem State.readMem_setDt (s : State) (b : Byte) (k : Nat) : (s.setDt b).readMem k = s.readMem k := rfl
@[simp] theorem State.getV_setDt (s : State) (b : Byte) (r : Nibble) : (s.setDt b).getV r = s.getV r := rfl

/-! ### setSt -/

@[simp] theorem State.setSt_v (s : State) (b : Byte) : (s.setSt b).v = s.v := rfl
@[simp] theorem State.setSt_i (s : State) (b : Byte) : (s.setSt b).i = s.i := rfl
@[simp] theorem State.setSt_pc (s : State) (b : Byte) : (s.setSt b).pc = s.pc := rfl
@[simp] theorem State.setSt_stack (s : State) (b : Byte) : (s.setSt b).stack = s.stack := rfl
@[simp] theorem State.setSt_sp (s : State) (b : Byte) : (s.setSt b).sp = s.sp := rfl
@[simp] theorem State.setSt_dt (s : State) (b : Byte) : (s.setSt b).dt = s.dt := rfl
@[simp] theorem State.setSt_latch (s : State) (b : Byte) : (s.setSt b).latch = s.latch := rfl
@[simp] theorem State.setSt_font (s : State) (b : Byte) : (s.setSt b).font = s.font := rfl
@[simp] theorem State.setSt_mem (s : State) (b : Byte) : (s.setSt b).mem = s.mem := rfl
@[simp] theorem State.setSt_disp (s : State) (b : Byte) : (s.setSt b).disp = s.disp := rfl
@[simp] theorem State.setSt_keys (s : State) (b : Byte) : (s.setSt b).keys = s.keys := rfl
@[simp] theorem State.setSt_rndIn (s : State) (b : Byte) : (s.setSt b).rndIn = s.rndIn := rfl
@[simp] theorem State.setSt_rndCount (s : State) (b : Byte) : (s.setSt b).rndCount = s.rndCount := rfl
@[simp] theorem State.setSt_agenda (s : State) (b : Byte) : (s.setSt b).agenda = s.agenda := rfl
@[simp] theorem State.setSt_st (s : State) (b : Byte) : (s.setSt b).st = b := rfl
@[simp] theorem State.readMem_setSt (s : State) (b : Byte) (k : Nat) : (s.setSt b).readMem k = s.readMem k := rfl
@[simp] theorem State.getV_setSt (s : State) (b : Byte) (r : Nibble) : (s.setSt b).getV r = s.getV r := rfl

/-! ### setDisp -/

@[simp] theorem State.setDisp_v (s : State) (d : BitVec 2048) : (s.setDisp d).v = s.v := rfl
@[simp] theorem State.setDisp_i (s : State) (d : BitVec 2048) : (s.setDisp d).i = s.i := rfl
@[simp] theorem State.setDisp_pc (s : State) (d : BitVec 2048) : (s.setDisp d).pc = s.pc := rfl
@[simp] theorem State.setDisp_stack (s : State) (d : BitVec 2048) : (s.setDisp d).stack = s.stack := rfl
@[simp] theorem State.setDisp_sp (s : State) (d : BitVec 2048) : (s.setDisp d).sp = s.sp := rfl
@[simp] theorem State.setDisp_dt (s : State) (d : BitVec 2048) : (s.setDisp d).dt = s.dt := rfl
@[simp] theorem State.setDisp_st (s : State) (d : BitVec 2048) : (s.setDisp d).st = s.st := rfl
@[simp] theorem State.setDisp_latch (s : State) (d : BitVec 2048) : (s.setDisp d).latch = s.latch := rfl
@[simp] theorem State.setDisp_font (s : State) (d : BitVec 2048) : (s.setDisp d).font = s.font := rfl
@[simp] theorem State.setDisp_mem (s : State) (d : BitVec 2048) : (s.setDisp d).mem = s.mem := rfl
@[simp] theorem State.setDisp_keys (s : State) (d : BitVec 2048) : (s.setDisp d).keys = s.keys := rfl
@[simp] theorem State.setDisp_rndIn (s : State) (d : BitVec 2048) : (s.setDisp d).rndIn = s.rndIn := rfl
@[simp] theorem State.setDisp_rndCount (s : State) (d : BitVec 2048) : (s.setDisp d).rndCount = s.rndCount := rfl
@[simp] theorem State.setDisp_agenda (s : State) (d : BitVec 2048) : (s.setDisp d).agenda = s.agenda := rfl
@[simp] theorem State.setDisp_disp (s : State) (d : BitVec 2048) : (s.setDisp d).disp = d := rfl
@[simp] theorem State.readMem_setDisp (s : State) (d : BitVec 2048) (k : Nat) : (s.setDisp d).readMem k = s.readMem k := rfl
@[simp] theorem State.getV_setDisp (s : State) (d : BitVec 2048) (r : Nibble) : (s.setDisp d).getV r = s.getV r := rfl

/-! ### setVF -/

@[simp] theorem State.setVF_i (s : State) (f : Bool) : (s.setVF f).i = s.i := rfl
@[simp] theorem State.setVF_pc (s : State) (f : Bool) : (s.setVF f).pc = s.pc := rfl
@[simp] theorem State.setVF_stack (s : State) (f : Bool) : (s.setVF f).stack = s.stack := rfl
@[simp] theorem State.setVF_sp (s : State) (f : Bool) : (s.setVF f).sp = s.sp := rfl
@[simp] theorem State.setVF_dt (s : State) (f : Bool) : (s.setVF f).dt = s.dt := rfl
@[simp] theorem State.setVF_st (s : State) (f : Bool) : (s.setVF f).st = s.st := rfl
@[simp] theorem State.setVF_latch (s : State) (f : Bool) : (s.setVF f).latch = s.latch := rfl
@[simp] theorem State.setVF_font (s : State) (f : Bool) : (s.setVF f).font = s.font := rfl
@[simp] theorem State.setVF_mem (s : State) (f : Bool) : (s.setVF f).mem = s.mem := rfl
@[simp] theorem State.setVF_disp (s : State) (f : Bool) : (s.setVF f).disp = s.disp := rfl
@[simp] theorem State.setVF_keys (s : State) (f : Bool) : (s.setVF f).keys = s.keys := rfl
@[simp] theorem State.setVF_rndIn (s : State) (f : Bool) : (s.setVF f).rndIn = s.rndIn := rfl
@[simp] theorem State.setVF_rndCount (s : State) (f : Bool) : (s.setVF f).rndCount = s.rndCount := rfl
@[simp] theorem State.setVF_agenda (s : State) (f : Bool) : (s.setVF f).agenda = s.agenda := rfl
@[simp] theorem State.readMem_setVF (s : State) (f : Bool) (k : Nat) : (s.setVF f).readMem k = s.readMem k := rfl

/-! ### setVAndFlag -/

@[simp] theorem State.setVAndFlag_i (s : State) (x : Nibble) (r : Byte) (f : Bool) : (s.setVAndFlag x r f).i = s.i := rfl
@[simp] theorem State.setVAndFlag_pc (s : State) (x : Nibble) (r : Byte) (f : Bool) : (s.setVAndFlag x r f).pc = s.pc := rfl
@[simp] theorem State.setVAndFlag_stack (s : State) (x : Nibble) (r : Byte) (f : Bool) : (s.setVAndFlag x r f).stack = s.stack := rfl
@[simp] theorem State.setVAndFlag_sp (s : State) (x : Nibble) (r : Byte) (f : Bool) : (s.setVAndFlag x r f).sp = s.sp := rfl
@[simp] theorem State.setVAndFlag_dt (s : State) (x : Nibble) (r : Byte) (f : Bool) : (s.setVAndFlag x r f).dt = s.dt := rfl
@[simp] theorem State.setVAndFlag_st (s : State) (x : Nibble) (r : Byte) (f : Bool) : (s.setVAndFlag x r f).st = s.st := rfl
@[simp] theorem State.setVAndFlag_latch (s : State) (x : Nibble) (r : Byte) (f : Bool) : (s.setVAndFlag x r f).latch = s.latch := rfl
@[simp] theorem State.setVAndFlag_font (s : State) (x : Nibble) (r : Byte) (f : Bool) : (s.setVAndFlag x r f).font = s.font := rfl
@[simp] theorem State.setVAndFlag_mem (s : State) (x : Nibble) (r : Byte) (f : Bool) : (s.setVAndFlag x r f).mem = s.mem := rfl
@[simp] theorem State.setVAndFlag_disp (s : State) (x : Nibble) (r : Byte) (f : Bool) : (s.setVAndFlag x r f).disp = s.disp := rfl
@[simp] theorem State.setVAndFlag_keys (s : State) (x : Nibble) (r : Byte) (f : Bool) : (s.setVAndFlag x r f).keys = s.keys := rfl
@[simp] theorem State.setVAndFlag_rndIn (s : State) (x : Nibble) (r : Byte) (f : Bool) : (s.setVAndFlag x r f).rndIn = s.rndIn := rfl
@[simp] theorem State.setVAndFlag_rndCount (s : State) (x : Nibble) (r : Byte) (f : Bool) : (s.setVAndFlag x r f).rndCount = s.rndCount := rfl
@[simp] theorem State.setVAndFlag_agenda (s : State) (x : Nibble) (r : Byte) (f : Bool) : (s.setVAndFlag x r f).agenda = s.agenda := rfl
@[simp] theorem State.readMem_setVAndFlag (s : State) (x : Nibble) (r : Byte) (f : Bool) (k : Nat) : (s.setVAndFlag x r f).readMem k = s.readMem k := rfl

/-! ### fetched -/

@[simp] theorem State.fetched_v (s : State) : (s.fetched).v = s.v := rfl
@[simp] theorem State.fetched_i (s : State) : (s.fetched).i = s.i := rfl
@[simp] theorem State.fetched_stack (s : State) : (s.fetched).stack = s.stack := rfl
@[simp] theorem State.fetched_sp (s : State) : (s.fetched).sp = s.sp := rfl
@[simp] theorem State.fetched_dt (s : State) : (s.fetched).dt = s.dt := rfl
@[simp] theorem State.fetched_st (s : State) : (s.fetched).st = s.st := rfl
@[simp] theorem State.fetched_latch (s : State) : (s.fetched).latch = s.latch := rfl
@[simp] theorem State.fetched_font (s : State) : (s.fetched).font = s.font := rfl
@[simp] theorem State.fetched_mem (s : State) : (s.fetched).mem = s.mem := rfl
@[simp] theorem State.fetched_disp (s : State) : (s.fetched).disp = s.disp := rfl
@[simp] theorem State.fetched_keys (s : State) : (s.fetched).keys = s.keys := rfl
@[simp] theorem State.fetched_rndIn (s : State) : (s.fetched).rndIn = s.rndIn := rfl
@[simp] theorem State.fetched_rndCount (s : State) : (s.fetched).rndCount = s.rndCount := rfl
@[simp] theorem State.fetched_agenda (s : State) : (s.fetched).agenda = s.agenda := rfl
@[simp] theorem State.readMem_fetched (s : State) (k : Nat) : (s.fetched).readMem k = s.readMem k := rfl
@[simp] theorem State.getV_fetched (s : State) (r : Nibble) : (s.fetched).getV r = s.getV r := rfl

/-! ### skipIf -/

@[simp] theorem State.skipIf_v (s : State) (c : Bool) : (s.skipIf c).v = s.v := by cases c <;> rfl
@[simp] theorem State.skipIf_i (s : State) (c : Bool) : (s.skipIf c).i = s.i := by cases c <;> rfl
@[simp] theorem State.skipIf_stack (s : State) (c : Bool) : (s.skipIf c).stack = s.stack := by cases c <;> rfl
@[simp] theorem State.skipIf_sp (s : State) (c : Bool) : (s.skipIf c).sp = s.sp := by cases c <;> rfl
@[simp] theorem State.skipIf_dt (s : State) (c : Bool) : (s.skipIf c).dt = s.dt := by cases c <;> rfl
@[simp] theorem State.skipIf_st (s : State) (c : Bool) : (s.skipIf c).st = s.st := by cases c <;> rfl
@[simp] theorem State.skipIf_latch (s : State) (c : Bool) : (s.skipIf c).latch = s.latch := by cases c <;> rfl
@[simp] theorem State.skipIf_font (s : State) (c : Bool) : (s.skipIf c).font = s.font := by cases c <;> rfl
@[simp] theorem State.skipIf_mem (s : State) (c : Bool) : (s.skipIf c).mem = s.mem := by cases c <;> rfl
@[simp] theorem State.skipIf_disp (s : State) (c : Bool) : (s.skipIf c).disp = s.disp := by cases c <;> rfl
@[simp] theorem State.skipIf_keys (s : State) (c : Bool) : (s.skipIf c).keys = s.keys := by cases c <;> rfl
@[simp] theorem State.skipIf_rndIn (s : State) (c : Bool) : (s.skipIf c).rndIn = s.rndIn := by cases c <;> rfl
@[simp] theorem State.skipIf_rndCount (s : State) (c : Bool) : (s.skipIf c).rndCount = s.rndCount := by cases c <;> rfl
@[simp] theorem State.skipIf_agenda (s : State) (c : Bool) : (s.skipIf c).agenda = s.agenda := by cases c <;> rfl
@[simp] theorem State.readMem_skipIf (s : State) (c : Bool) (k : Nat) : (s.skipIf c).readMem k = s.readMem k := by cases c <;> rfl
@[simp] theorem State.getV_skipIf (s : State) (c : Bool) (r : Nibble) : (s.skipIf c).getV r = s.getV r := by cases c <;> rfl

/-! ### drawn -/

@[simp] theorem State.drawn_v (s : State) : (s.drawn).v = s.v := rfl
@[simp] theorem State.drawn_i (s : State) : (s.drawn).i = s.i := rfl
@[simp] theorem State.drawn_pc (s : State) : (s.drawn).pc = s.pc := rfl
@[simp] theorem State.drawn_stack (s : State) : (s.drawn).stack = s.stack := rfl
@[simp] theorem State.drawn_sp (s : State) : (s.drawn).sp = s.sp := rfl
@[simp] theorem State.drawn_dt (s : State) : (s.drawn).dt = s.dt := rfl
@[simp] theorem State.drawn_st (s : State) : (s.drawn).st = s.st := rfl
@[simp] theorem State.drawn_latch (s : State) : (s.drawn).latch = s.latch := rfl
@[simp] theorem State.drawn_font (s : State) : (s.drawn).font = s.font := rfl
@[simp] theorem State.drawn_mem (s : State) : (s.drawn).mem = s.mem := rfl
@[simp] theorem State.drawn_disp (s : State) : (s.drawn).disp = s.disp := rfl
@[simp] theorem State.drawn_keys (s : State) : (s.drawn).keys = s.keys := rfl
@[simp] theorem State.drawn_agenda (s : State) : (s.drawn).agenda = s.agenda := rfl
@[simp] theorem State.readMem_drawn (s : State) (k : Nat) : (s.drawn).readMem k = s.readMem k := rfl
@[simp] theorem State.getV_drawn (s : State) (r : Nibble) : (s.drawn).getV r = s.getV r := rfl

/-! ### writeMem -/

@[simp] theorem State.writeMem_v (s : State) (a : Nat) (b : Byte) : (s.writeMem a b).v = s.v := rfl
@[simp] theorem State.writeMem_i (s : State) (a : Nat) (b : Byte) : (s.writeMem a b).i = s.i := rfl
@[simp] theorem State.writeMem_pc (s : State) (a : Nat) (b : Byte) : (s.writeMem a b).pc = s.pc := rfl
@[simp] theorem State.writeMem_stack (s : State) (a : Nat) (b : Byte) : (s.writeMem a b).stack = s.stack := rfl
@[simp] theorem State.writeMem_sp (s : State) (a : Nat) (b : Byte) : (s.writeMem a b).sp = s.sp := rfl
@[simp] theorem State.writeMem_dt (s : State) (a : Nat) (b : Byte) : (s.writeMem a b).dt = s.dt := rfl
@[simp] theorem State.writeMem_st (s : State) (a : Nat) (b : Byte) : (s.writeMem a b).st = s.st := rfl
@[simp] theorem State.writeMem_latch (s : State) (a : Nat) (b : Byte) : (s.writeMem a b).latch = s.latch := rfl
@[simp] theorem State.writeMem_font (s : State) (a : Nat) (b : Byte) : (s.writeMem a b).font = s.font := rfl
@[simp] theorem State.writeMem_disp (s : State) (a : Nat) (b : Byte) : (s.writeMem a b).disp = s.disp := rfl
@[simp] theorem State.writeMem_keys (s : State) (a : Nat) (b : Byte) : (s.writeMem a b).keys = s.keys := rfl
@[simp] theorem State.writeMem_rndIn (s : State) (a : Nat) (b : Byte) : (s.writeMem a b).rndIn = s.rndIn := rfl
@[simp] theorem State.writeMem_rndCount (s : State) (a : Nat) (b : Byte) : (s.writeMem a b).rndCount = s.rndCount := rfl
@[simp] theorem State.writeMem_agenda (s : State) (a : Nat) (b : Byte) : (s.writeMem a b).agenda = s.agenda := rfl
@[simp] theorem State.writeMem_mem (s : State) (a : Nat) (b : Byte) : (s.writeMem a b).mem = Memory.write s.font s.mem a b := rfl
@[simp] theorem State.getV_writeMem (s : State) (a : Nat) (b : Byte) (r : Nibble) : (s.writeMem a b).getV r = s.getV r := rfl

/-! ### storeBytes -/

@[simp] theorem State.storeBytes_v (s : State) (a : Nat) (bs : List Byte) : (s.storeBytes a bs).v = s.v := rfl
@[simp] theorem State.storeBytes_i (s : State) (a : Nat) (bs : List Byte) : (s.storeBytes a bs).i = s.i := rfl
@[simp] theorem State.storeBytes_pc (s : State) (a : Nat) (bs : List Byte) : (s.storeBytes a bs).pc = s.pc := rfl
@[simp] theorem State.storeBytes_stack (s : State) (a : Nat) (bs : List Byte) : (s.storeBytes a bs).stack = s.stack := rfl
@[simp] theorem State.storeBytes_sp (s : State) (a : Nat) (bs : List Byte) : (s.storeBytes a bs).sp = s.sp := rfl
@[simp] theorem State.storeBytes_dt (s : State) (a : Nat) (bs : List Byte) : (s.storeBytes a bs).dt = s.dt := rfl
@[simp] theorem State.storeBytes_st (s : State) (a : Nat) (bs : List Byte) : (s.storeBytes a bs).st = s.st := rfl
@[simp] theorem State.storeBytes_latch (s : State) (a : Nat) (bs : List Byte) : (s.storeBytes a bs).latch = s.latch := rfl
@[simp] theorem State.storeBytes_font (s : State) (a : Nat) (bs : List Byte) : (s.storeBytes a bs).font = s.font := rfl
@[simp] theorem State.storeBytes_disp (s : State) (a : Nat) (bs : List Byte) : (s.storeBytes a bs).disp = s.disp := rfl
@[simp] theorem State.storeBytes_keys (s : State) (a : Nat) (bs : List Byte) : (s.storeBytes a bs).keys = s.keys := rfl
@[simp] theorem State.storeBytes_rndIn (s : State) (a : Nat) (bs : List Byte) : (s.storeBytes a bs).rndIn = s.rndIn := rfl
@[simp] theorem State.storeBytes_rndCount (s : State) (a : Nat) (bs : List Byte) : (s.storeBytes a bs).rndCount = s.rndCount := rfl
@[simp] theorem State.storeBytes_agenda (s : State) (a : Nat) (bs : List Byte) : (s.storeBytes a bs).agenda = s.agenda := rfl
@[simp] theorem State.storeBytes_mem (s : State) (a : Nat) (bs : List Byte) : (s.storeBytes a bs).mem = Memory.writeList s.font s.mem a bs := rfl
@[simp] theorem State.getV_storeBytes (s : State) (a : Nat) (bs : List Byte) (r : Nibble) : (s.storeBytes a bs).getV r = s.getV r := rfl

/-! ### loadV -/

@[simp] theorem State.loadV_i (s : State) (a n : Nat) : (s.loadV a n).i = s.i := rfl
@[simp] theorem State.loadV_pc (s : State) (a n : Nat) : (s.loadV a n).pc = s.pc := rfl
@[simp] theorem State.loadV_stack (s : State) (a n : Nat) : (s.loadV a n).stack = s.stack := rfl
@[simp] theorem State.loadV_sp (s : State) (a n : Nat) : (s.loadV a n).sp = s.sp := rfl
@[simp] theorem State.loadV_dt (s : State) (a n : Nat) : (s.loadV a n).dt = s.dt := rfl
@[simp] theorem State.loadV_st (s : State) (a n : Nat) : (s.loadV a n).st = s.st := rfl
@[simp] theorem State.loadV_latch (s : State) (a n : Nat) : (s.loadV a n).latch = s.latch := rfl
@[simp] theorem State.loadV_font (s : State) (a n : Nat) : (s.loadV a n).font = s.font := rfl
@[simp] theorem State.loadV_mem (s : State) (a n : Nat) : (s.loadV a n).mem = s.mem := rfl
@[simp] theorem State.loadV_disp (s : State) (a n : Nat) : (s.loadV a n).disp = s.disp := rfl
@[simp] theorem State.loadV_keys (s : State) (a n : Nat) : (s.loadV a n).keys = s.keys := rfl
@[simp] theorem State.loadV_rndIn (s : State) (a n : Nat) : (s.loadV a n).rndIn = s.rndIn := rfl
@[simp] theorem State.loadV_rndCount (s : State) (a n : Nat) : (s.loadV a n).rndCount = s.rndCount := rfl
@[simp] theorem State.loadV_agenda (s : State) (a n : Nat) : (s.loadV a n).agenda = s.agenda := rfl
@[simp] theorem State.loadV_v (s : State) (a n : Nat) : (s.loadV a n).v = loadedV s.readMem a s.v n := rfl
@[simp] theorem State.readMem_loadV (s : State) (a n : Nat) (k : Nat) : (s.loadV a n).readMem k = s.readMem k := rfl

/-! ### push -/

@[simp] theorem State.push_v (s : State) (w : Word) : (s.push w).v = s.v := rfl
@[simp] theorem State.push_i (s : State) (w : Word) : (s.push w).i = s.i := rfl
@[simp] theorem State.push_pc (s : State) (w : Word) : (s.push w).pc = s.pc := rfl
@[simp] theorem State.push_dt (s : State) (w : Word) : (s.push w).dt = s.dt := rfl
@[simp] theorem State.push_st (s : State) (w : Word) : (s.push w).st = s.st := rfl
@[simp] theorem State.push_latch (s : State) (w : Word) : (s.push w).latch = s.latch := rfl
@[simp] theorem State.push_font (s : State) (w : Word) : (s.push w).font = s.font := rfl
@[simp] theorem State.push_mem (s : State) (w : Word) : (s.push w).mem = s.mem := rfl
@[simp] theorem State.push_disp (s : State) (w : Word) : (s.push w).disp = s.disp := rfl
@[simp] theorem State.push_keys (s : State) (w : Word) : (s.push w).keys = s.keys := rfl
@[simp] theorem State.push_rndIn (s : State) (w : Word) : (s.push w).rndIn = s.rndIn := rfl
@[simp] theorem State.push_rndCount (s : State) (w : Word) : (s.push w).rndCount = s.rndCount := rfl
@[simp] theorem State.push_agenda (s : State) (w : Word) : (s.push w).agenda = s.agenda := rfl
@[simp] theorem State.readMem_push (s : State) (w : Word) (k : Nat) : (s.push w).readMem k = s.readMem k := rfl
@[simp] theorem State.getV_push (s : State) (w : Word) (r : Nibble) : (s.push w).getV r = s.getV r := rfl

/-! ### popPc -/

@[simp] theorem State.popPc_v (s : State) : s.popPc.v = s.v := rfl
@[simp] theorem State.popPc_i (s : State) : s.popPc.i = s.i := rfl
@[simp] theorem State.popPc_stack (s : State) : s.popPc.stack = s.stack := rfl
@[simp] theorem State.popPc_dt (s : State) : s.popPc.dt = s.dt := rfl
@[simp] theorem State.popPc_st (s : State) : s.popPc.st = s.st := rfl
@[simp] theorem State.popPc_latch (s : State) : s.popPc.latch = s.latch := rfl
@[simp] theorem State.popPc_font (s : State) : s.popPc.font = s.font := rfl
@[simp] theorem State.popPc_mem (s : State) : s.popPc.mem = s.mem := rfl
@[simp] theorem State.popPc_disp (s : State) : s.popPc.disp = s.disp := rfl
@[simp] theorem State.popPc_keys (s : State) : s.popPc.keys = s.keys := rfl
@[simp] theorem State.popPc_rndIn (s : State) : s.popPc.rndIn = s.rndIn := rfl
@[simp] theorem State.popPc_rndCount (s : State) : s.popPc.rndCount = s.rndCount := rfl
@[simp] theorem State.popPc_agenda (s : State) : s.popPc.agenda = s.agenda := rfl
@[simp] theorem State.readMem_popPc (s : State) (k : Nat) : s.popPc.readMem k = s.readMem k := rfl
@[simp] theorem State.getV_popPc (s : State) (r : Nibble) : s.popPc.getV r = s.getV r := rfl

/-! ### The values written -/

@[simp] theorem State.fetched_pc (s : State) : s.fetched.pc = s.pc + 2#16 := rfl

/-- A skip moves PC on by two exactly when its condition holds. -/
@[simp] theorem State.skipIf_pc (s : State) (c : Bool) :
    (s.skipIf c).pc = if c then s.pc + 2#16 else s.pc := by cases c <;> rfl

@[simp] theorem State.drawn_rndIn (s : State) : s.drawn.rndIn = s.rndIn.tail := rfl
@[simp] theorem State.drawn_rndCount (s : State) : s.drawn.rndCount = s.rndCount + 1 := rfl

/-- A push onto a stack that is not full takes SP up by one. -/
theorem State.push_sp (s : State) (w : Word) (h : s.sp.val < 16) : (s.push w).sp.val = s.sp.val + 1 := by
  simp [State.push]; omega

@[simp] theorem State.popPc_sp (s : State) : s.popPc.sp.val = s.sp.val - 1 := rfl

/-- A push writes the entry SP counts up to, and no other. -/
theorem State.push_stack (s : State) (w : Word) (k : Fin 16) :
    (s.push w).stack[k] = if s.sp.val = k.val then w else s.stack[k] := by
  simp [State.push, Vector.getElem_setIfInBounds]

/-- A pop takes PC from the entry below the one SP counted up to. -/
theorem State.popPc_pc (s : State) (k : Fin 16) (hk : s.sp.val = k.val + 1) : s.popPc.pc = s.stack[k] := by
  simp [State.popPc, hk]

/-- A register reads as what was written to it last, and the others as before (R15). -/
theorem State.getV_setV (s : State) (x r : Nibble) (b : Byte) :
    (s.setV x b).getV r = if r = x then b else s.getV r := by
  by_cases h : r = x
  · subst h; simp [State.getV, State.setV]
  · have hne : x.toNat ≠ r.toNat := fun e => h (BitVec.eq_of_toNat_eq e.symm)
    simp [State.getV, State.setV, h, hne]

@[simp] theorem State.getV_setV_self (s : State) (x : Nibble) (b : Byte) : (s.setV x b).getV x = b := by
  simp [State.getV_setV]

theorem State.getV_setV_of_ne (s : State) (x r : Nibble) (b : Byte) (h : r ≠ x) :
    (s.setV x b).getV r = s.getV r := by
  simp [State.getV_setV, h]

/-- VF holds the flag written to it. -/
@[simp] theorem State.getV_setVF_flag (s : State) (f : Bool) : (s.setVF f).getV 0xF#4 = flagByte f :=
  State.getV_setV_self s 0xF#4 (flagByte f)

theorem State.getV_setVF_of_ne (s : State) (f : Bool) (r : Nibble) (h : r ≠ 0xF#4) :
    (s.setVF f).getV r = s.getV r := State.getV_setV_of_ne s 0xF#4 r (flagByte f) h

/-- A result and its flag: VF holds the flag even when it is the destination, the destination holds the result
otherwise, and no other register changes (R16, D9). -/
theorem State.getV_setVAndFlag (s : State) (x r : Nibble) (b : Byte) (f : Bool) :
    (s.setVAndFlag x b f).getV r = if r = 0xF#4 then flagByte f else if r = x then b else s.getV r := by
  unfold State.setVAndFlag State.setVF
  rw [State.getV_setV, State.getV_setV]

/-- The registers after a load: the first `n` hold the bytes read, the others what they held (R91). -/
theorem loadedV_getElem (read : Nat → Byte) (a : Nat) (v : Vector Byte 16) (n : Nat) (k : Nat) (hk : k < 16) :
    (loadedV read a v n)[k] = if k < n then read (a + k) else v[k] := by
  induction n with
  | zero => simp [loadedV]
  | succ n ih =>
    rw [loadedV, Vector.getElem_setIfInBounds hk, ih]
    by_cases h : n = k
    · subst h; simp
    · have : (k < n + 1) = (k < n) := by apply propext; omega
      simp [h, this]

theorem State.getV_loadV (s : State) (a n : Nat) (r : Nibble) :
    (s.loadV a n).getV r = if r.toNat < n then s.readMem (a + r.toNat) else s.getV r :=
  loadedV_getElem s.readMem a s.v n r.toNat r.isLt

end Sys2Proof.Machine
end

