-- ==== Sys2Proof/Laws/Memory.lean ====
section
/-! SUPPORT. The memory array: what an address reads as after a write, and that every operation keeps the canonical form. -/

namespace Sys2Proof.Machine

/-! ### Reading after writing -/

theorem Memory.listed_erase (a k : Nat) (m : List Host.Cell) :
    Memory.listed k (Memory.erase a m) = if k = a then none else Memory.listed k m := by
  induction m with
  | nil => simp [Memory.erase, Memory.listed]
  | cons c m ih =>
    unfold Memory.erase at ih ⊢
    by_cases hc : c.1 = a
    · rw [List.filter_cons_of_neg (by simp [hc]), ih]
      by_cases hk : k = a
      · simp [hk]
      · simp [Memory.listed, hk, hc, Ne.symm hk]
    · rw [List.filter_cons_of_pos (by simp [hc])]
      simp only [Memory.listed, ih]
      by_cases hk : k = a
      · simp [hk, hc]
      · simp [hk]

theorem Memory.listed_place (c : Host.Cell) (k : Nat) (m : List Host.Cell) (h : Memory.listed c.1 m = none) :
    Memory.listed k (Memory.place c m) = if k = c.1 then some c.2 else Memory.listed k m := by
  induction m with
  | nil => simp [Memory.place, Memory.listed, eq_comm]
  | cons d m ih =>
    simp only [Memory.listed] at h
    split at h
    · cases h
    · rename_i hd
      unfold Memory.place
      split
      · simp [Memory.listed, eq_comm]
      · simp only [Memory.listed, ih h]
        by_cases hk : d.1 = k
        · subst hk; simp [hd]
        · simp [hk]

/-- One write: its address reads as the byte, every other as before (R50). -/
theorem Memory.read_write (font : Vector Byte 80) (m : List Host.Cell) (a k : Nat) (b : Byte) (ha : a < 4096) :
    Memory.read font (Memory.write font m a b) k = if k = a then b else Memory.read font m k := by
  have ha' : a < Config.memSize := ha
  unfold Memory.write Memory.read
  rw [if_pos ha']
  by_cases hb : b = Memory.background font a
  · rw [if_pos hb, Memory.listed_erase]
    by_cases hk : k = a
    · simp [hk, hb]
    · simp [hk]
  · rw [if_neg hb, Memory.listed_place _ _ _ (by simp [Memory.listed_erase]), Memory.listed_erase]
    by_cases hk : k = a
    · simp [hk]
    · simp [hk]

/-- Bytes written in sequence: each of their addresses reads as its byte, every other as before (R44, R50). -/
theorem Memory.read_writeList (font : Vector Byte 80) (bs : List Byte) (m : List Host.Cell) (a k : Nat)
    (h : a + bs.length ≤ 4096) :
    Memory.read font (Memory.writeList font m a bs) k =
      if hk : a ≤ k ∧ k < a + bs.length then bs[k - a]'(by omega) else Memory.read font m k := by
  induction bs generalizing m a with
  | nil => simp [Memory.writeList]
  | cons b bs ih =>
    simp only [List.length_cons] at h
    rw [Memory.writeList, ih _ (a + 1) (by omega), Memory.read_write _ _ _ _ _ (by omega)]
    by_cases h0 : k = a
    · subst h0; simp
    · by_cases h1 : a + 1 ≤ k ∧ k < a + 1 + bs.length
      · have h2 : a ≤ k ∧ k < a + (b :: bs).length := by simp only [List.length_cons]; omega
        rw [dif_pos h1, dif_pos h2]
        have : k - a = (k - (a + 1)) + 1 := by omega
        simp [this]
      · have h2 : ¬ (a ≤ k ∧ k < a + (b :: bs).length) := by simp only [List.length_cons]; omega
        rw [dif_neg h1, dif_neg h2, if_neg h0]

/-! ### The canonical form -/

/-- The canonical form in one place: what each listed cell satisfies, and that the rest continues above it. -/
theorem Memory.wfFrom_cons (font : Vector Byte 80) (lo : Nat) (c : Host.Cell) (m : List Host.Cell) :
    Memory.wfFrom font lo (c :: m) = true ↔
      lo ≤ c.1 ∧ c.1 < 4096 ∧ c.2 ≠ Memory.background font c.1 ∧ Memory.wfFrom font (c.1 + 1) m = true := by
  simp only [Memory.wfFrom, Bool.and_eq_true, decide_eq_true_eq, and_assoc]

theorem Memory.wfFrom_mono (font : Vector Byte 80) {lo lo' : Nat} (h : lo' ≤ lo) {m : List Host.Cell}
    (hm : Memory.wfFrom font lo m = true) : Memory.wfFrom font lo' m = true := by
  cases m with
  | nil => rfl
  | cons c m =>
    rw [Memory.wfFrom_cons] at hm ⊢
    exact ⟨by omega, hm.2⟩

theorem Memory.wfFrom_erase (font : Vector Byte 80) (a lo : Nat) (m : List Host.Cell)
    (h : Memory.wfFrom font lo m = true) : Memory.wfFrom font lo (Memory.erase a m) = true := by
  induction m generalizing lo with
  | nil => exact h
  | cons c m ih =>
    rw [Memory.wfFrom_cons] at h
    unfold Memory.erase at ih ⊢
    by_cases hc : c.1 = a
    · rw [List.filter_cons_of_neg (by simp [hc])]
      exact Memory.wfFrom_mono font (by omega) (ih _ h.2.2.2)
    · rw [List.filter_cons_of_pos (by simp [hc]), Memory.wfFrom_cons]
      exact ⟨h.1, h.2.1, h.2.2.1, ih _ h.2.2.2⟩

theorem Memory.wfFrom_place (font : Vector Byte 80) (c : Host.Cell) (lo : Nat) (m : List Host.Cell)
    (h : Memory.wfFrom font lo m = true) (hn : Memory.listed c.1 m = none) (hlo : lo ≤ c.1) (hc : c.1 < 4096)
    (hb : c.2 ≠ Memory.background font c.1) : Memory.wfFrom font lo (Memory.place c m) = true := by
  induction m generalizing lo with
  | nil => exact (Memory.wfFrom_cons font lo c []).2 ⟨hlo, hc, hb, rfl⟩
  | cons d m ih =>
    rw [Memory.wfFrom_cons] at h
    simp only [Memory.listed] at hn
    split at hn
    · cases hn
    · rename_i hne
      unfold Memory.place
      split
      · rename_i hlt
        rw [Memory.wfFrom_cons, Memory.wfFrom_cons]
        exact ⟨hlo, hc, hb, by omega, h.2⟩
      · rw [Memory.wfFrom_cons]
        exact ⟨h.1, h.2.1, h.2.2.1, ih _ h.2.2.2 hn (by omega)⟩

/-- A write keeps the canonical form. -/
theorem Memory.wf_write (font : Vector Byte 80) (m : List Host.Cell) (a : Nat) (b : Byte)
    (h : Memory.wf font m = true) : Memory.wf font (Memory.write font m a b) = true := by
  unfold Memory.wf at h ⊢
  unfold Memory.write
  split
  · rename_i ha
    split
    · exact Memory.wfFrom_erase font a 0 m h
    · rename_i hb
      exact Memory.wfFrom_place font (a, b) 0 _ (Memory.wfFrom_erase font a 0 m h)
        (by simp [Memory.listed_erase]) (Nat.zero_le _) ha hb
  · exact h

/-- A sequence of writes keeps the canonical form. -/
theorem Memory.wf_writeList (font : Vector Byte 80) (bs : List Byte) (m : List Host.Cell) (a : Nat)
    (h : Memory.wf font m = true) : Memory.wf font (Memory.writeList font m a bs) = true := by
  induction bs generalizing m a with
  | nil => exact h
  | cons b bs ih => exact ih _ _ (Memory.wf_write font m a b h)

/-- The reset memory lists nothing, which is canonical for every font. -/
theorem Memory.wf_nil (font : Vector Byte 80) : Memory.wf font [] = true := rfl

/-! ### On states -/

theorem State.readMem_writeMem (s : State) (a k : Nat) (b : Byte) (ha : a < 4096) :
    (s.writeMem a b).readMem k = if k = a then b else s.readMem k :=
  Memory.read_write s.font s.mem a k b ha

theorem State.readMem_storeBytes (s : State) (a k : Nat) (bs : List Byte) (h : a + bs.length ≤ 4096) :
    (s.storeBytes a bs).readMem k =
      if hk : a ≤ k ∧ k < a + bs.length then bs[k - a]'(by omega) else s.readMem k :=
  Memory.read_writeList s.font bs s.mem a k h

end Sys2Proof.Machine
end

