-- ==== Sys2Proof/Laws/Ops.lean ====
section
/-! SUPPORT. What the shared operations can do, each said once: fault entry, the checked access at I, the scan of the keys,
the random draw, the first registers as a list, the digits of a byte, one step's transaction, a skip, and one step of a run. -/

namespace Sys2Proof.Machine

/-- Fault entry always answers a next state: the halted one. -/
theorem raise_eq (c : Fault) (info w : Word) (s : State) : raise c info w s = .next (s.halted c info w) := rfl

/-- The offending address of an access outside memory is `max(a, 4096)` (R103). -/
theorem oobInfo_eq (a : Word) : oobInfo a = BitVec.ofNat 16 (max a.toNat 4096) := by
  unfold oobInfo Config.memSize
  apply BitVec.eq_of_toNat_eq
  have := a.isLt
  split
  · have : max a.toNat 4096 = 4096 := by omega
    simp [this]
  · have : max a.toNat 4096 = a.toNat := by omega
    simp [this]

/-- Bytes from an address are in memory when there are none of them or the last one is below 4096. -/
theorem rangeOk_iff (a n : Nat) : rangeOk a n = true ↔ n = 0 ∨ a + n ≤ 4096 := by
  simp [rangeOk]

/-- An access to at least one byte at I either goes ahead, with all its bytes in memory, or raises MEM_OOB with the lowest
address outside. -/
theorem withBytesAtI_eq (n : Nat) (w : Word) (s : State) (go : Result) :
    withBytesAtI n w s go =
      if n = 0 ∨ s.i.toNat + n ≤ 4096 then go
      else .next (s.halted .memOob (BitVec.ofNat 16 (max s.i.toNat 4096)) w) := by
  unfold withBytesAtI
  simp only [rangeOk_iff, raise_eq, oobInfo_eq]

/-- The scan finds a key exactly when it is down and every lower one is up. -/
theorem State.lowestKey_eq_some (s : State) (k : Nat) :
    s.lowestKey = some k ↔ k < 16 ∧ s.keyDown k = true ∧ ∀ j < k, s.keyDown j = false := by
  simp [State.lowestKey, List.find?_range_eq_some, and_left_comm]

/-- The scan finds no key exactly when all sixteen are up. -/
theorem State.lowestKey_eq_none (s : State) :
    s.lowestKey = none ↔ ∀ k < 16, s.keyDown k = false := by
  simp [State.lowestKey]

/-- The draw takes the environment's next byte when it has fixed one. -/
theorem State.draw_cons (s : State) (b : Byte) (rest : List Byte) (h : s.rndIn = b :: rest) : s.draw = b := by
  simp [State.draw, h]

/-- The draw is the free value of its number when the environment has fixed none. -/
theorem State.draw_nil (s : State) (h : s.rndIn = []) : s.draw = Config.freeRandom s.rndCount := by
  simp [State.draw, h]

theorem State.firstV_length (s : State) (n : Nat) (h : n ≤ 16) : (s.firstV n).length = n := by
  simp [State.firstV, h]

/-- The r-th of the first registers is `V[r]`. -/
theorem State.firstV_getElem (s : State) (n : Nat) (r : Nibble) (h : r.toNat < (s.firstV n).length) :
    (s.firstV n)[r.toNat] = s.getV r := by
  simp [State.firstV, State.getV]

theorem bcdDigits_length (b : Byte) : (bcdDigits b).length = 3 := rfl

/-- One step performs a Step when nothing is on the agenda, and otherwise the agenda's first transaction, taken off it. -/
theorem step_of_agenda_nil (s : State) (h : s.agenda = []) : step s = coreStep s := by
  simp [step, performNext, h]

theorem step_of_agenda_cons (s : State) (t : Transaction) (rest : List Transaction) (h : s.agenda = t :: rest) :
    step s = perform t { s with agenda := rest } := by
  simp [step, performNext, h]

/-- Everything a Step can do: nothing when halted, a fetch fault, a decode fault, or the decoded instruction (R54, R107). -/
theorem coreStep_cases (s : State) :
    (s.latch.faulted = true ∧ coreStep s = .next s) ∨
    (s.latch.faulted = false ∧ 4096 ≤ s.pc.toNat + 1 ∧
      coreStep s = .next (s.halted .fetchOob (BitVec.ofNat 16 (max s.pc.toNat 4096)) 0#16)) ∨
    (s.latch.faulted = false ∧ s.pc.toNat + 1 < 4096 ∧ (∃ e, decode s.fetchWord = .error e) ∧
      coreStep s = .next (s.halted .unrecognized 0#16 s.fetchWord)) ∨
    (s.latch.faulted = false ∧ s.pc.toNat + 1 < 4096 ∧
      ∃ i, decode s.fetchWord = .ok i ∧ coreStep s = exec i s) := by
  unfold coreStep
  cases hf : s.latch.faulted with
  | true => exact .inl ⟨rfl, rfl⟩
  | false =>
    right
    by_cases hp : 4096 ≤ s.pc.toNat + 1
    · exact .inl ⟨rfl, hp, by simp [hp, raise_eq, oobInfo_eq]⟩
    · right
      have hp' : s.pc.toNat + 1 < 4096 := by omega
      cases hd : decode s.fetchWord with
      | error e => exact .inl ⟨rfl, hp', ⟨e, rfl⟩, by simp [hp, raise_eq]⟩
      | ok i => exact .inr ⟨rfl, hp', i, rfl, by simp [hp]⟩

/-- A skip moves PC on by 4 in all when its condition holds, and by 2 when not. -/
theorem State.skipIf_fetched_pc (s : State) (c : Bool) :
    (s.fetched.skipIf c).pc.toNat = (s.pc.toNat + if c = true then 4 else 2) % 65536 := by
  cases c
  · exact BitVec.toNat_add s.pc 2#16
  · show (s.pc + 2#16 + 2#16).toNat = (s.pc.toNat + 4) % 65536
    rw [BitVec.toNat_add, BitVec.toNat_add]
    show ((s.pc.toNat + 2) % 65536 + 2) % 65536 = _
    omega

/-- A run of one step more: the step, then the run from there. (The rewriting is done for any core, where the state type is
a variable.) -/
theorem run_succ_of_step (M : Host.Core) (s t : M.State) (n : Nat) (h : M.step s = .next t) :
    M.run (n + 1) s = M.run n t := by
  simp only [Host.Core.run, h]

end Sys2Proof.Machine
end

