-- ==== Sys2Proof/Laws/Display.lean ====
section
/-! SUPPORT. What a draw does: it toggles, once each, the pixels that the set sprite bits fall on, and it collides when one of them
was on. -/

namespace Sys2Proof.Machine

/-- Columns below 64 and rows below 32 have distinct flat indexes. -/
theorem pixelIndex_inj {x y x' y' : Nat} (hx : x < 64) (hx' : x' < 64) :
    pixelIndex x y = pixelIndex x' y' ↔ x = x' ∧ y = y' := by
  unfold pixelIndex; omega

theorem pixelIndex_lt {x y : Nat} (hx : x < 64) (hy : y < 32) : pixelIndex x y < 2048 := by
  unfold pixelIndex; omega

/-- A toggle turns its own pixel over and leaves every other. -/
theorem Canvas.toggle_disp (k : Canvas) (p q : Nat) (hp : p < 2048) :
    (k.toggle p).disp.getLsbD q = (k.disp.getLsbD q ^^ decide (q = p)) := by
  simp [Canvas.toggle, BitVec.getLsbD_xor, BitVec.getLsbD_twoPow, hp, eq_comm]

theorem Canvas.toggle_collision (k : Canvas) (p : Nat) :
    (k.toggle p).collision = (k.collision || k.disp.getLsbD p) := rfl

/-- Distinct pixels toggled one after the other: each is turned over once. -/
theorem Canvas.toggles_disp (ps : List Nat) (k : Canvas) (hlt : ∀ p ∈ ps, p < 2048) (hnd : ps.Nodup) (q : Nat) :
    (ps.foldl Canvas.toggle k).disp.getLsbD q = (k.disp.getLsbD q ^^ decide (q ∈ ps)) := by
  induction ps generalizing k with
  | nil => simp
  | cons p ps ih =>
    rw [List.nodup_cons] at hnd
    rw [List.foldl_cons, ih _ (fun p' hp' => hlt p' (List.mem_cons_of_mem _ hp')) hnd.2,
      Canvas.toggle_disp _ _ _ (hlt p List.mem_cons_self)]
    by_cases h : q = p
    · subst h; simp [hnd.1]
    · simp [h]

/-- Distinct pixels toggled one after the other: a collision is noted when one of them was on at the start. -/
theorem Canvas.toggles_collision (ps : List Nat) (k : Canvas) (hlt : ∀ p ∈ ps, p < 2048) (hnd : ps.Nodup) :
    (ps.foldl Canvas.toggle k).collision = (k.collision || ps.any k.disp.getLsbD) := by
  induction ps generalizing k with
  | nil => simp
  | cons p ps ih =>
    rw [List.nodup_cons] at hnd
    rw [List.foldl_cons, ih _ (fun p' hp' => hlt p' (List.mem_cons_of_mem _ hp')) hnd.2, Canvas.toggle_collision,
      List.any_cons, Bool.or_assoc]
    have same : ∀ p' ∈ ps, (k.toggle p).disp.getLsbD p' = k.disp.getLsbD p' := by
      intro p' hp'
      have hne : p' ≠ p := fun e => hnd.1 (e ▸ hp')
      rw [Canvas.toggle_disp _ _ _ (hlt p List.mem_cons_self)]
      simp [hne]
    congr 2
    rw [Bool.eq_iff_iff, List.any_eq_true, List.any_eq_true]
    constructor
    · rintro ⟨p', hp', h⟩
      exact ⟨p', hp', same p' hp' ▸ h⟩
    · rintro ⟨p', hp', h⟩
      exact ⟨p', hp', (same p' hp').symm ▸ h⟩

/-- The pixels that the set bits of one sprite row fall on (R93, R94). -/
def rowHits (bx by_ : Byte) (read : Nat → Byte) (r : Nat) : List Nat :=
  ((List.range 8).filter (fun c => (read r).getLsbD (7 - c))).map
    (fun c => pixelIndex ((bx.toNat + c) % 64) ((by_.toNat + r) % 32))

/-- The pixels that the set bits of a sprite fall on, row by row. -/
def spriteHits (bx by_ : Byte) (read : Nat → Byte) (n : Nat) : List Nat :=
  (List.range n).flatMap (rowHits bx by_ read)

theorem Canvas.drawRow_eq (bx by_ : Byte) (read : Nat → Byte) (k : Canvas) (r : Nat) :
    Canvas.drawRow bx by_ read k r = (rowHits bx by_ read r).foldl Canvas.toggle k := by
  rw [rowHits, List.foldl_map, List.foldl_filter]
  rfl

/-- A draw toggles the sprite's pixels one after the other. -/
theorem Canvas.drawSprite_eq (bx by_ : Byte) (read : Nat → Byte) (n : Nat) (k : Canvas) :
    Canvas.drawSprite bx by_ read n k = (spriteHits bx by_ read n).foldl Canvas.toggle k := by
  rw [spriteHits, List.foldl_flatMap, Canvas.drawSprite]
  congr 1
  funext k r
  exact Canvas.drawRow_eq bx by_ read k r

theorem mem_spriteHits (bx by_ : Byte) (read : Nat → Byte) (n p : Nat) :
    p ∈ spriteHits bx by_ read n ↔ ∃ r c, r < n ∧ c < 8 ∧ (read r).getLsbD (7 - c) = true ∧
      p = pixelIndex ((bx.toNat + c) % 64) ((by_.toNat + r) % 32) := by
  simp only [spriteHits, rowHits, List.mem_flatMap, List.mem_range, List.mem_map, List.mem_filter]
  constructor
  · rintro ⟨r, hr, c, ⟨hc, hb⟩, rfl⟩
    exact ⟨r, c, hr, hc, hb, rfl⟩
  · rintro ⟨r, c, hr, hc, hb, rfl⟩
    exact ⟨r, hr, c, ⟨hc, hb⟩, rfl⟩

theorem spriteHits_lt (bx by_ : Byte) (read : Nat → Byte) (n : Nat) : ∀ p ∈ spriteHits bx by_ read n, p < 2048 := by
  intro p hp
  obtain ⟨r, c, -, -, -, rfl⟩ := (mem_spriteHits bx by_ read n p).1 hp
  exact pixelIndex_lt (Nat.mod_lt _ (by decide)) (Nat.mod_lt _ (by decide))

/-- A sprite covers no pixel twice in one draw (R93 (c)). -/
theorem spriteHits_nodup (bx by_ : Byte) (read : Nat → Byte) (n : Nat) (hn : n ≤ 32) :
    (spriteHits bx by_ read n).Nodup := by
  unfold spriteHits
  rw [List.nodup_flatMap]
  constructor
  · intro r _
    refine List.Nodup.map_on ?_ (List.Nodup.filter _ List.nodup_range)
    intro c hc d hd h
    have hc' := List.mem_range.1 (List.mem_filter.1 hc).1
    have hd' := List.mem_range.1 (List.mem_filter.1 hd).1
    rw [pixelIndex_inj (Nat.mod_lt _ (by decide)) (Nat.mod_lt _ (by decide))] at h
    omega
  · refine List.Pairwise.imp_of_mem ?_ List.nodup_range
    intro r q hr hq hne p hp hp'
    have hr' := List.mem_range.1 hr
    have hq' := List.mem_range.1 hq
    obtain ⟨c, -, rfl⟩ := List.mem_map.1 hp
    obtain ⟨d, -, h⟩ := List.mem_map.1 hp'
    rw [pixelIndex_inj (Nat.mod_lt _ (by decide)) (Nat.mod_lt _ (by decide))] at h
    omega

/-- The pixels after a draw (R93). -/
theorem Canvas.drawSprite_disp (bx by_ : Byte) (read : Nat → Byte) (n : Nat) (hn : n ≤ 32) (k : Canvas) (q : Nat) :
    (Canvas.drawSprite bx by_ read n k).disp.getLsbD q =
      (k.disp.getLsbD q ^^ decide (q ∈ spriteHits bx by_ read n)) := by
  rw [Canvas.drawSprite_eq]
  exact Canvas.toggles_disp _ k (spriteHits_lt bx by_ read n) (spriteHits_nodup bx by_ read n hn) q

/-- The collision of a draw (R95). -/
theorem Canvas.drawSprite_collision (bx by_ : Byte) (read : Nat → Byte) (n : Nat) (hn : n ≤ 32) (k : Canvas) :
    (Canvas.drawSprite bx by_ read n k).collision =
      (k.collision || (spriteHits bx by_ read n).any k.disp.getLsbD) := by
  rw [Canvas.drawSprite_eq]
  exact Canvas.toggles_collision _ k (spriteHits_lt bx by_ read n) (spriteHits_nodup bx by_ read n hn)

end Sys2Proof.Machine
end

