-- ==== Sys2Proof/Laws/PerInstr.lean ====
section
/-! SUPPORT. A statement per instruction, for all instructions together: its word is in its own row of the dispatch table. -/

namespace Sys2Proof.Laws.EncodedInRow

/-- The row of the dispatch table with the instruction's class selects the instruction's word (R57, R58). -/
def Statement (i : Instr) : Prop := ∃ r ∈ dispatchTable, r.cls = i.rowClass ∧ encode i &&& r.mask = r.pattern

/-- A mask goes over the parts of a word. -/
theorem or_mask (a b m : Word) : (a ||| b) &&& m = (a &&& m) ||| (b &&& m) := by
  ext k hk
  simp [Bool.and_or_distrib_right]

/-- An address field lies outside the family mask. -/
theorem addr_family (nnn : Addr) : nnn.setWidth 16 &&& 0xF000#16 = 0#16 := by
  apply BitVec.eq_of_getLsbD_eq
  intro k hk
  interval_cases k <;> simp

theorem x_family : ∀ x : Nibble, x.setWidth 16 <<< 8 &&& 0xF000#16 = 0#16 := by decide
theorem y_family : ∀ y : Nibble, y.setWidth 16 <<< 4 &&& 0xF000#16 = 0#16 := by decide
theorem n_family : ∀ n : Nibble, n.setWidth 16 &&& 0xF000#16 = 0#16 := by decide
theorem nn_family : ∀ nn : Byte, nn.setWidth 16 &&& 0xF000#16 = 0#16 := by decide
theorem x_regReg : ∀ x : Nibble, x.setWidth 16 <<< 8 &&& 0xF00F#16 = 0#16 := by decide
theorem y_regReg : ∀ y : Nibble, y.setWidth 16 <<< 4 &&& 0xF00F#16 = 0#16 := by decide
theorem x_regOp : ∀ x : Nibble, x.setWidth 16 <<< 8 &&& 0xF0FF#16 = 0#16 := by decide

theorem nop : Statement .nop :=
  ⟨⟨1, 0x0000#16, 0xFFFF#16⟩, by decide, rfl, rfl⟩

theorem cls : Statement .cls :=
  ⟨⟨2, 0x00E0#16, 0xFFFF#16⟩, by decide, rfl, rfl⟩

theorem ret : Statement .ret :=
  ⟨⟨3, 0x00EE#16, 0xFFFF#16⟩, by decide, rfl, rfl⟩

theorem jp (nnn : Addr) : Statement (.jp nnn) :=
  ⟨⟨4, 0x1000#16, 0xF000#16⟩, by decide, rfl, by simp [encode, packAddr_eq_or, or_mask, addr_family]⟩

theorem call (nnn : Addr) : Statement (.call nnn) :=
  ⟨⟨5, 0x2000#16, 0xF000#16⟩, by decide, rfl, by simp [encode, packAddr_eq_or, or_mask, addr_family]⟩

theorem seImm (x : Nibble) (nn : Byte) : Statement (.seImm x nn) :=
  ⟨⟨6, 0x3000#16, 0xF000#16⟩, by decide, rfl, by simp [encode, packRegImm_eq_or, or_mask, x_family, nn_family]⟩

theorem sneImm (x : Nibble) (nn : Byte) : Statement (.sneImm x nn) :=
  ⟨⟨7, 0x4000#16, 0xF000#16⟩, by decide, rfl, by simp [encode, packRegImm_eq_or, or_mask, x_family, nn_family]⟩

theorem seReg (x : Nibble) (y : Nibble) : Statement (.seReg x y) :=
  ⟨⟨8, 0x5000#16, 0xF00F#16⟩, by decide, rfl, by simp [encode, packRegReg_eq_or, or_mask, x_regReg, y_regReg]⟩

theorem ldImm (x : Nibble) (nn : Byte) : Statement (.ldImm x nn) :=
  ⟨⟨9, 0x6000#16, 0xF000#16⟩, by decide, rfl, by simp [encode, packRegImm_eq_or, or_mask, x_family, nn_family]⟩

theorem addImm (x : Nibble) (nn : Byte) : Statement (.addImm x nn) :=
  ⟨⟨10, 0x7000#16, 0xF000#16⟩, by decide, rfl, by simp [encode, packRegImm_eq_or, or_mask, x_family, nn_family]⟩

theorem ldReg (x : Nibble) (y : Nibble) : Statement (.ldReg x y) :=
  ⟨⟨11, 0x8000#16, 0xF00F#16⟩, by decide, rfl, by simp [encode, packRegReg_eq_or, or_mask, x_regReg, y_regReg]⟩

theorem orReg (x : Nibble) (y : Nibble) : Statement (.orReg x y) :=
  ⟨⟨12, 0x8001#16, 0xF00F#16⟩, by decide, rfl, by simp [encode, packRegReg_eq_or, or_mask, x_regReg, y_regReg]⟩

theorem andReg (x : Nibble) (y : Nibble) : Statement (.andReg x y) :=
  ⟨⟨13, 0x8002#16, 0xF00F#16⟩, by decide, rfl, by simp [encode, packRegReg_eq_or, or_mask, x_regReg, y_regReg]⟩

theorem xorReg (x : Nibble) (y : Nibble) : Statement (.xorReg x y) :=
  ⟨⟨14, 0x8003#16, 0xF00F#16⟩, by decide, rfl, by simp [encode, packRegReg_eq_or, or_mask, x_regReg, y_regReg]⟩

theorem addReg (x : Nibble) (y : Nibble) : Statement (.addReg x y) :=
  ⟨⟨15, 0x8004#16, 0xF00F#16⟩, by decide, rfl, by simp [encode, packRegReg_eq_or, or_mask, x_regReg, y_regReg]⟩

theorem subReg (x : Nibble) (y : Nibble) : Statement (.subReg x y) :=
  ⟨⟨16, 0x8005#16, 0xF00F#16⟩, by decide, rfl, by simp [encode, packRegReg_eq_or, or_mask, x_regReg, y_regReg]⟩

theorem shr (x : Nibble) (y : Nibble) : Statement (.shr x y) :=
  ⟨⟨17, 0x8006#16, 0xF00F#16⟩, by decide, rfl, by simp [encode, packRegReg_eq_or, or_mask, x_regReg, y_regReg]⟩

theorem subn (x : Nibble) (y : Nibble) : Statement (.subn x y) :=
  ⟨⟨18, 0x8007#16, 0xF00F#16⟩, by decide, rfl, by simp [encode, packRegReg_eq_or, or_mask, x_regReg, y_regReg]⟩

theorem shl (x : Nibble) (y : Nibble) : Statement (.shl x y) :=
  ⟨⟨19, 0x800E#16, 0xF00F#16⟩, by decide, rfl, by simp [encode, packRegReg_eq_or, or_mask, x_regReg, y_regReg]⟩

theorem sneReg (x : Nibble) (y : Nibble) : Statement (.sneReg x y) :=
  ⟨⟨20, 0x9000#16, 0xF00F#16⟩, by decide, rfl, by simp [encode, packRegReg_eq_or, or_mask, x_regReg, y_regReg]⟩

theorem ldI (nnn : Addr) : Statement (.ldI nnn) :=
  ⟨⟨21, 0xA000#16, 0xF000#16⟩, by decide, rfl, by simp [encode, packAddr_eq_or, or_mask, addr_family]⟩

theorem jpV0 (nnn : Addr) : Statement (.jpV0 nnn) :=
  ⟨⟨22, 0xB000#16, 0xF000#16⟩, by decide, rfl, by simp [encode, packAddr_eq_or, or_mask, addr_family]⟩

theorem rnd (x : Nibble) (nn : Byte) : Statement (.rnd x nn) :=
  ⟨⟨23, 0xC000#16, 0xF000#16⟩, by decide, rfl, by simp [encode, packRegImm_eq_or, or_mask, x_family, nn_family]⟩

theorem drw (x : Nibble) (y : Nibble) (n : Nibble) : Statement (.drw x y n) :=
  ⟨⟨24, 0xD000#16, 0xF000#16⟩, by decide, rfl, by simp [encode, packRegReg_eq_or, or_mask, x_family, y_family, n_family]⟩

theorem skp (x : Nibble) : Statement (.skp x) :=
  ⟨⟨25, 0xE09E#16, 0xF0FF#16⟩, by decide, rfl, by simp [encode, packRegImm_eq_or, or_mask, x_regOp]⟩

theorem sknp (x : Nibble) : Statement (.sknp x) :=
  ⟨⟨26, 0xE0A1#16, 0xF0FF#16⟩, by decide, rfl, by simp [encode, packRegImm_eq_or, or_mask, x_regOp]⟩

theorem ldVxDt (x : Nibble) : Statement (.ldVxDt x) :=
  ⟨⟨27, 0xF007#16, 0xF0FF#16⟩, by decide, rfl, by simp [encode, packRegImm_eq_or, or_mask, x_regOp]⟩

theorem ldVxK (x : Nibble) : Statement (.ldVxK x) :=
  ⟨⟨28, 0xF00A#16, 0xF0FF#16⟩, by decide, rfl, by simp [encode, packRegImm_eq_or, or_mask, x_regOp]⟩

theorem ldDtVx (x : Nibble) : Statement (.ldDtVx x) :=
  ⟨⟨29, 0xF015#16, 0xF0FF#16⟩, by decide, rfl, by simp [encode, packRegImm_eq_or, or_mask, x_regOp]⟩

theorem ldStVx (x : Nibble) : Statement (.ldStVx x) :=
  ⟨⟨30, 0xF018#16, 0xF0FF#16⟩, by decide, rfl, by simp [encode, packRegImm_eq_or, or_mask, x_regOp]⟩

theorem addI (x : Nibble) : Statement (.addI x) :=
  ⟨⟨31, 0xF01E#16, 0xF0FF#16⟩, by decide, rfl, by simp [encode, packRegImm_eq_or, or_mask, x_regOp]⟩

theorem ldF (x : Nibble) : Statement (.ldF x) :=
  ⟨⟨32, 0xF029#16, 0xF0FF#16⟩, by decide, rfl, by simp [encode, packRegImm_eq_or, or_mask, x_regOp]⟩

theorem ldB (x : Nibble) : Statement (.ldB x) :=
  ⟨⟨33, 0xF033#16, 0xF0FF#16⟩, by decide, rfl, by simp [encode, packRegImm_eq_or, or_mask, x_regOp]⟩

theorem storeRegs (x : Nibble) : Statement (.storeRegs x) :=
  ⟨⟨34, 0xF055#16, 0xF0FF#16⟩, by decide, rfl, by simp [encode, packRegImm_eq_or, or_mask, x_regOp]⟩

theorem loadRegs (x : Nibble) : Statement (.loadRegs x) :=
  ⟨⟨35, 0xF065#16, 0xF0FF#16⟩, by decide, rfl, by simp [encode, packRegImm_eq_or, or_mask, x_regOp]⟩

end Sys2Proof.Laws.EncodedInRow
end

