-- ==== Sys2Proof/Tests/Slice0.lean ====
section
/-! SUPPORT. The model's own tests: the words of spec/30_encoding.md R57 and R58 written out bit by bit, the words the decoder refuses,
single steps with the results of spec/95_test_vectors.md, and for every statement with hypotheses states that meet them. -/

set_option maxRecDepth 8000
set_option exponentiation.threshold 4096

namespace Sys2Proof.Tests

open Sys2Proof Sys2Proof.Machine

/-! ### Helpers -/

/-- The reset state with registers set. -/
def withV (l : List (Nibble × Byte)) : State := l.foldl (fun s p => s.setV p.1 p.2) State.reset

/-- A state with I and bytes stored from there on. -/
def withI (a : Word) (bytes : List Byte) (s : State) : State := (s.storeBytes a.toNat bytes).setI a

/-- What one step answers with the word at PC. -/
def ran (w : Word) (s : State) : Option State :=
  match step (s.withFetchWord 16 w.toNat) with
  | .next t => some t
  | .fault _ => none
  | .refused _ => none

/-- A property of the state after one step with the word at PC. -/
def runs (w : Word) (s : State) (p : State → Bool) : Bool := (ran w s).any p

/-- After one step the core is halted with this latch, and PC, the registers, memory and display are as before. -/
def faults (w : Word) (s : State) (c : Fault) (info : Word) : Bool :=
  runs w s fun t =>
    t.latch == ⟨true, c.code, s.pc, w, info⟩ && t.pc == s.pc && t.v == s.v && t.disp == s.disp &&
      t.mem == (s.withFetchWord 16 w.toNat).mem && t.sp == s.sp

/-- The flat indexes of the pixels that are on among the first `n`. -/
def lit (n : Nat) (t : State) : List Nat := (List.range n).filter t.disp.getLsbD

/-! ### WellFormed: what it refuses and what it takes (R59, R121) -/

theorem test_illformed_system : wordWellFormed 0x0001#16 = false ∧ decode 0x0001#16 = .error (.unrecognized 0x0001#16) := by decide
theorem test_illformed_cls_neighbour : wordWellFormed 0x00E1#16 = false ∧ decode 0x00E1#16 = .error (.unrecognized 0x00E1#16) := by decide
theorem test_illformed_machine_call : wordWellFormed 0x0123#16 = false ∧ decode 0x0123#16 = .error (.unrecognized 0x0123#16) := by decide
theorem test_illformed_se_reg : wordWellFormed 0x5121#16 = false ∧ decode 0x5121#16 = .error (.unrecognized 0x5121#16) := by decide
theorem test_illformed_alu_8 : wordWellFormed 0x8128#16 = false ∧ decode 0x8128#16 = .error (.unrecognized 0x8128#16) := by decide
theorem test_illformed_alu_f : wordWellFormed 0x812F#16 = false ∧ decode 0x812F#16 = .error (.unrecognized 0x812F#16) := by decide
theorem test_illformed_sne_reg : wordWellFormed 0x9121#16 = false ∧ decode 0x9121#16 = .error (.unrecognized 0x9121#16) := by decide
theorem test_illformed_key : wordWellFormed 0xE19F#16 = false ∧ decode 0xE19F#16 = .error (.unrecognized 0xE19F#16) := by decide
theorem test_illformed_misc : wordWellFormed 0xF100#16 = false ∧ decode 0xF100#16 = .error (.unrecognized 0xF100#16) := by decide
theorem test_illformed_all_ones : wordWellFormed 0xFFFF#16 = false ∧ decode 0xFFFF#16 = .error (.unrecognized 0xFFFF#16) := by decide
theorem test_illformed_image : imageWellFormed (List.replicate 3585 0x00#8) = false := by
  rw [imageWellFormed, List.length_replicate]; decide
theorem test_wellformed_image : imageWellFormed (List.replicate 3584 0x00#8) = true := by
  rw [imageWellFormed, List.length_replicate]; decide
theorem test_truncated_word : decodeBytes [0x60#8] = .error .truncated := by decide

/-! ### Decode: every row's word bit by bit (R57, R58), high byte at the lower address (R45) -/

theorem test_decode_nop : decodeBytes [0b00000000#8, 0b00000000#8] = .ok (.nop, []) := by decide
theorem test_decode_cls : decodeBytes [0b00000000#8, 0b11100000#8] = .ok (.cls, []) := by decide
theorem test_decode_ret : decodeBytes [0b00000000#8, 0b11101110#8] = .ok (.ret, []) := by decide
theorem test_decode_jp : decodeBytes [0b00011010#8, 0b10111100#8] = .ok (.jp 0xABC#12, []) := by decide
theorem test_decode_call : decodeBytes [0b00100011#8, 0b00000000#8] = .ok (.call 0x300#12, []) := by decide
theorem test_decode_seImm : decodeBytes [0b00110011#8, 0b00101010#8] = .ok (.seImm 3#4 0x2A#8, []) := by decide
theorem test_decode_sneImm : decodeBytes [0b01000011#8, 0b10000001#8] = .ok (.sneImm 3#4 0x81#8, []) := by decide
theorem test_decode_seReg : decodeBytes [0b01010001#8, 0b00100000#8] = .ok (.seReg 1#4 2#4, []) := by decide
theorem test_decode_ldImm : decodeBytes [0b01101010#8, 0b11111111#8] = .ok (.ldImm 10#4 0xFF#8, []) := by decide
theorem test_decode_addImm : decodeBytes [0b01110001#8, 0b00000001#8] = .ok (.addImm 1#4 0x01#8, []) := by decide
theorem test_decode_ldReg : decodeBytes [0b10000001#8, 0b00100000#8] = .ok (.ldReg 1#4 2#4, []) := by decide
theorem test_decode_orReg : decodeBytes [0b10000001#8, 0b00100001#8] = .ok (.orReg 1#4 2#4, []) := by decide
theorem test_decode_andReg : decodeBytes [0b10000001#8, 0b00100010#8] = .ok (.andReg 1#4 2#4, []) := by decide
theorem test_decode_xorReg : decodeBytes [0b10000001#8, 0b00100011#8] = .ok (.xorReg 1#4 2#4, []) := by decide
theorem test_decode_addReg : decodeBytes [0b10000001#8, 0b00100100#8] = .ok (.addReg 1#4 2#4, []) := by decide
theorem test_decode_subReg : decodeBytes [0b10000001#8, 0b00100101#8] = .ok (.subReg 1#4 2#4, []) := by decide
theorem test_decode_shr : decodeBytes [0b10000001#8, 0b00100110#8] = .ok (.shr 1#4 2#4, []) := by decide
theorem test_decode_subn : decodeBytes [0b10000001#8, 0b00100111#8] = .ok (.subn 1#4 2#4, []) := by decide
theorem test_decode_shl : decodeBytes [0b10000001#8, 0b00101110#8] = .ok (.shl 1#4 2#4, []) := by decide
theorem test_decode_sneReg : decodeBytes [0b10010001#8, 0b00100000#8] = .ok (.sneReg 1#4 2#4, []) := by decide
theorem test_decode_ldI : decodeBytes [0b10100001#8, 0b00100011#8] = .ok (.ldI 0x123#12, []) := by decide
theorem test_decode_jpV0 : decodeBytes [0b10111111#8, 0b11111111#8] = .ok (.jpV0 0xFFF#12, []) := by decide
theorem test_decode_rnd : decodeBytes [0b11000011#8, 0b00001111#8] = .ok (.rnd 3#4 0x0F#8, []) := by decide
theorem test_decode_drw : decodeBytes [0b11010001#8, 0b00100011#8] = .ok (.drw 1#4 2#4 3#4, []) := by decide
theorem test_decode_skp : decodeBytes [0b11100101#8, 0b10011110#8] = .ok (.skp 5#4, []) := by decide
theorem test_decode_sknp : decodeBytes [0b11100101#8, 0b10100001#8] = .ok (.sknp 5#4, []) := by decide
theorem test_decode_ldVxDt : decodeBytes [0b11110011#8, 0b00000111#8] = .ok (.ldVxDt 3#4, []) := by decide
theorem test_decode_ldVxK : decodeBytes [0b11111111#8, 0b00001010#8] = .ok (.ldVxK 15#4, []) := by decide
theorem test_decode_ldDtVx : decodeBytes [0b11110010#8, 0b00010101#8] = .ok (.ldDtVx 2#4, []) := by decide
theorem test_decode_ldStVx : decodeBytes [0b11110010#8, 0b00011000#8] = .ok (.ldStVx 2#4, []) := by decide
theorem test_decode_addI : decodeBytes [0b11110001#8, 0b00011110#8] = .ok (.addI 1#4, []) := by decide
theorem test_decode_ldF : decodeBytes [0b11110001#8, 0b00101001#8] = .ok (.ldF 1#4, []) := by decide
theorem test_decode_ldB : decodeBytes [0b11110000#8, 0b00110011#8] = .ok (.ldB 0#4, []) := by decide
theorem test_decode_storeRegs : decodeBytes [0b11110010#8, 0b01010101#8] = .ok (.storeRegs 2#4, []) := by decide
theorem test_decode_loadRegs : decodeBytes [0b11110010#8, 0b01100101#8] = .ok (.loadRegs 2#4, []) := by decide
theorem test_decodeTableWord : decodeTableWord 16 0x8126 = some (.shr 1#4 2#4) ∧ decodeTableWord 16 0x8128 = none := by decide

/-! ### One step of each instruction (95_test_vectors.md, parts 1 and 2) -/

theorem test_nop : runs 0x0000#16 State.reset (fun t => t.pc == 0x202#16) = true := by decide
theorem test_cls : runs 0x00E0#16 { State.reset with disp := BitVec.allOnes 2048 } (fun t => t.disp == 0#2048 && t.getV 0xF#4 == 0#8) = true := by decide
theorem test_ret : runs 0x00EE#16 { State.reset with stack := State.reset.stack.set 0 0x206#16, sp := 1 } (fun t => t.pc == 0x206#16 && t.sp == 0 && t.stack[0] == 0x206#16) = true := by decide
theorem test_ret_underflow : faults 0x00EE#16 State.reset .stackUnderflow 0#16 = true := by decide
theorem test_jp : runs 0x1201#16 State.reset (fun t => t.pc == 0x201#16) = true := by decide
theorem test_call : runs 0x2300#16 State.reset (fun t => t.pc == 0x300#16 && t.sp == 1 && t.stack[0] == 0x202#16) = true := by decide
theorem test_call_overflow : faults 0x2300#16 { State.reset with sp := 16 } .stackOverflow 16#16 = true := by decide
theorem test_seImm_taken : runs 0x3342#16 (withV [(0x3#4, 0x42#8)]) (fun t => t.pc == 0x204#16) = true := by decide
theorem test_seImm_not_taken : runs 0x3343#16 (withV [(0x3#4, 0x42#8)]) (fun t => t.pc == 0x202#16) = true := by decide
theorem test_sneImm_taken : runs 0x4343#16 (withV [(0x3#4, 0x42#8)]) (fun t => t.pc == 0x204#16) = true := by decide
theorem test_sneImm_not_taken : runs 0x4342#16 (withV [(0x3#4, 0x42#8)]) (fun t => t.pc == 0x202#16) = true := by decide
theorem test_seReg_taken : runs 0x5120#16 (withV [(0x1#4, 0x07#8), (0x2#4, 0x07#8)]) (fun t => t.pc == 0x204#16) = true := by decide
theorem test_seReg_not_taken : runs 0x5120#16 (withV [(0x1#4, 0x07#8), (0x2#4, 0x08#8)]) (fun t => t.pc == 0x202#16) = true := by decide
theorem test_sneReg_taken : runs 0x9120#16 (withV [(0x1#4, 0x07#8), (0x2#4, 0x08#8)]) (fun t => t.pc == 0x204#16) = true := by decide
theorem test_sneReg_not_taken : runs 0x9120#16 (withV [(0x1#4, 0x07#8), (0x2#4, 0x07#8)]) (fun t => t.pc == 0x202#16) = true := by decide
theorem test_jpV0 : runs 0xB300#16 (withV [(0x0#4, 0x04#8)]) (fun t => t.pc == 0x304#16) = true := by decide
theorem test_jpV0_above_memory : runs 0xBFFF#16 (withV [(0x0#4, 0xFF#8)]) (fun t => t.pc == 0x10FE#16) = true := by decide
theorem test_ldImm : runs 0x6AFF#16 State.reset (fun t => t.getV 0xA#4 == 0xFF#8 && t.pc == 0x202#16) = true := by decide
theorem test_addImm_wraps : runs 0x7101#16 (withV [(0x1#4, 0xFF#8), (0xF#4, 0x55#8)]) (fun t => t.getV 1#4 == 0x00#8 && t.getV 0xF#4 == 0x55#8) = true := by decide
theorem test_addImm_vf : runs 0x7F05#16 (withV [(0xF#4, 0x10#8)]) (fun t => t.getV 0xF#4 == 0x15#8) = true := by decide
theorem test_ldReg : runs 0x8120#16 (withV [(0x2#4, 0x11#8)]) (fun t => t.getV 1#4 == 0x11#8) = true := by decide
theorem test_orReg : runs 0x8121#16 (withV [(0x1#4, 0xF0#8), (0x2#4, 0x0F#8), (0xF#4, 0x77#8)]) (fun t => t.getV 1#4 == 0xFF#8 && t.getV 0xF#4 == 0x77#8) = true := by decide
theorem test_andReg : runs 0x8122#16 (withV [(0x1#4, 0xF0#8), (0x2#4, 0x3C#8), (0xF#4, 0x77#8)]) (fun t => t.getV 1#4 == 0x30#8 && t.getV 0xF#4 == 0x77#8) = true := by decide
theorem test_xorReg : runs 0x8123#16 (withV [(0x1#4, 0xFF#8), (0x2#4, 0x0F#8)]) (fun t => t.getV 1#4 == 0xF0#8) = true := by decide
theorem test_addReg_carry : runs 0x8124#16 (withV [(0x1#4, 0xFF#8), (0x2#4, 0x01#8)]) (fun t => t.getV 1#4 == 0x00#8 && t.getV 0xF#4 == 1#8) = true := by decide
theorem test_addReg_x_is_f : runs 0x8F14#16 (withV [(0xF#4, 0xFF#8), (0x1#4, 0x01#8)]) (fun t => t.getV 0xF#4 == 1#8) = true := by decide
theorem test_subReg_borrow : runs 0x8125#16 (withV [(0x1#4, 0x03#8), (0x2#4, 0x05#8)]) (fun t => t.getV 1#4 == 0xFE#8 && t.getV 0xF#4 == 0#8) = true := by decide
theorem test_subReg_equal : runs 0x8125#16 (withV [(0x1#4, 0x42#8), (0x2#4, 0x42#8)]) (fun t => t.getV 1#4 == 0x00#8 && t.getV 0xF#4 == 1#8) = true := by decide
theorem test_shr_ignores_y : runs 0x8126#16 (withV [(0x1#4, 0x05#8), (0x2#4, 0xFF#8)]) (fun t => t.getV 1#4 == 0x02#8 && t.getV 0xF#4 == 1#8) = true := by decide
theorem test_shr_x_is_f : runs 0x8F06#16 (withV [(0xF#4, 0x03#8)]) (fun t => t.getV 0xF#4 == 1#8) = true := by decide
theorem test_subn : runs 0x8127#16 (withV [(0x1#4, 0x03#8), (0x2#4, 0x05#8)]) (fun t => t.getV 1#4 == 0x02#8 && t.getV 0xF#4 == 1#8) = true := by decide
theorem test_subn_x_is_f : runs 0x8F17#16 (withV [(0xF#4, 0x05#8), (0x1#4, 0x03#8)]) (fun t => t.getV 0xF#4 == 0#8) = true := by decide
theorem test_shl_ignores_y : runs 0x812E#16 (withV [(0x1#4, 0x81#8), (0x2#4, 0x55#8)]) (fun t => t.getV 1#4 == 0x02#8 && t.getV 0xF#4 == 1#8) = true := by decide
theorem test_shl_x_is_f : runs 0x8F0E#16 (withV [(0xF#4, 0x80#8)]) (fun t => t.getV 0xF#4 == 1#8) = true := by decide
theorem test_rnd_masks : runs 0xC30F#16 { State.reset with rndIn := [0xAB#8, 0x5C#8] } (fun t => t.getV 3#4 == 0x0B#8 && t.rndIn == [0x5C#8]) = true := by decide
theorem test_rnd_whole : runs 0xC3FF#16 { State.reset with rndIn := [0x5C#8] } (fun t => t.getV 3#4 == 0x5C#8) = true := by decide
theorem test_ldI : runs 0xA123#16 State.reset (fun t => t.i == 0x123#16) = true := by decide
theorem test_addI_wraps : runs 0xF11E#16 ((withV [(0x1#4, 0x02#8), (0xF#4, 0x09#8)]).setI 0xFFFF#16) (fun t => t.i == 0x0001#16 && t.getV 0xF#4 == 9#8) = true := by decide
theorem test_addI_leaves_memory : runs 0xF11E#16 ((withV [(0x1#4, 0x01#8)]).setI 0x0FFF#16) (fun t => t.i == 0x1000#16 && !t.latch.faulted) = true := by decide
theorem test_ldF : runs 0xF129#16 (withV [(0x1#4, 0x0F#8)]) (fun t => t.i == 0x04B#16) = true := by decide
theorem test_ldF_above_15 : faults 0xF129#16 (withV [(0x1#4, 0x10#8)]) .fontDigit 0x10#16 = true := by decide
theorem test_ldB : runs 0xF033#16 ((withV [(0x0#4, 0xEA#8)]).setI 0xFFD#16) (fun t => [t.readMem 0xFFD, t.readMem 0xFFE, t.readMem 0xFFF] == [2#8, 3#8, 4#8]) = true := by decide
theorem test_ldB_out_of_bounds : faults 0xF033#16 ((withV [(0x0#4, 0xEA#8)]).setI 0xFFE#16) .memOob 0x1000#16 = true := by decide
theorem test_storeRegs : runs 0xF255#16 ((withV [(0x0#4, 0x01#8), (0x1#4, 0x02#8), (0x2#4, 0x03#8)]).setI 0x400#16) (fun t => [t.readMem 0x400, t.readMem 0x401, t.readMem 0x402] == [1#8, 2#8, 3#8] && t.i == 0x400#16) = true := by decide
theorem test_storeRegs_out_of_bounds : faults 0xFF55#16 (State.reset.setI 0xFF1#16) .memOob 0x1000#16 = true := by decide
theorem test_loadRegs : runs 0xFF65#16 ((State.reset.writeMem 0x40F 0x77#8).setI 0x400#16) (fun t => t.getV 0xF#4 == 0x77#8 && t.getV 0xE#4 == 0#8 && t.i == 0x400#16) = true := by decide
theorem test_loadRegs_out_of_bounds : faults 0xF165#16 (State.reset.setI 0xFFF#16) .memOob 0x1000#16 = true := by decide
theorem test_drw_wraps : runs 0xD121#16 (withI 0x300#16 [0xFF#8] (withV [(0x1#4, 0x3C#8)])) (fun t => lit 64 t == [0, 1, 2, 3, 60, 61, 62, 63] && t.getV 0xF#4 == 0#8) = true := by decide
theorem test_drw_out_of_bounds : faults 0xD123#16 (State.reset.setI 0xFFE#16) .memOob 0x1000#16 = true := by decide
theorem test_skp : runs 0xE59E#16 { (withV [(0x5#4, 0x0B#8)]) with keys := 0x0800#16 } (fun t => t.pc == 0x204#16) = true := by decide
theorem test_skp_above_15 : faults 0xE59E#16 (withV [(0x5#4, 0x10#8)]) .keyIndex 0x10#16 = true := by decide
theorem test_sknp : runs 0xE5A1#16 { (withV [(0x5#4, 0x0B#8)]) with keys := 0x0800#16 } (fun t => t.pc == 0x202#16) = true := by decide
theorem test_sknp_above_15 : faults 0xE5A1#16 (withV [(0x5#4, 0xFF#8)]) .keyIndex 0xFF#16 = true := by decide
theorem test_ldVxDt : runs 0xF307#16 { State.reset with dt := 0x3C#8 } (fun t => t.getV 3#4 == 0x3C#8 && t.dt == 0x3C#8) = true := by decide
theorem test_ldVxK_lowest : runs 0xF00A#16 { State.reset with keys := 0x0088#16 } (fun t => t.getV 0#4 == 3#8 && t.pc == 0x202#16) = true := by decide
theorem test_ldVxK_waits : runs 0xF00A#16 State.reset (fun t => t.pc == 0x200#16 && t.v == State.reset.v) = true := by decide
theorem test_ldDtVx : runs 0xF215#16 (withV [(0x2#4, 0x05#8)]) (fun t => t.dt == 5#8) = true := by decide
theorem test_ldStVx : runs 0xF218#16 (withV [(0x2#4, 0x02#8)]) (fun t => t.st == 2#8 && toneOutput t) = true := by decide

/-! ### Fetch, host transactions and reset (95_test_vectors.md 2.1, 2.6, 2.7) -/

/-- One step from a state, as an Option. -/
def stepped (s : State) : Option State :=
  match step s with
  | .next t => some t
  | .fault _ => none
  | .refused _ => none

/-- The halted state of 95_test_vectors.md 2.7: DT = 5, and 0x0001 at 0x200 has been decoded. -/
def haltedState : State :=
  { State.reset with mem := [(0x201, 0x01#8)], dt := 5#8, latch := ⟨true, 1#3, 0x200#16, 0x0001#16, 0#16⟩ }

theorem test_unrecognized : stepped { State.reset with mem := [(0x201, 0x01#8)], dt := 5#8 } = some haltedState := by rfl
theorem test_fetch_high_byte_first :
    (stepped { State.reset with mem := [(0x200, 0x12#8), (0x201, 0x34#8)] }).map (·.pc) = some 0x234#16 := by decide
theorem test_fetch_last_word :
    (stepped { State.reset with mem := [(0xFFE, 0x1F#8), (0xFFF, 0xFE#8)], pc := 0xFFE#16 }).map
      (fun t => (t.pc, t.latch.faulted)) = some (0xFFE#16, false) := by decide
theorem test_fetch_at_fff : (stepped { State.reset with pc := 0xFFF#16 }).map (·.latch)
    = some ⟨true, 2#3, 0xFFF#16, 0#16, 0x1000#16⟩ := by decide
theorem test_fetch_at_10fe : (stepped { State.reset with pc := 0x10FE#16 }).map (·.latch)
    = some ⟨true, 2#3, 0x10FE#16, 0#16, 0x10FE#16⟩ := by decide
theorem test_timer_tick : (stepped { State.reset with dt := 5#8, st := 0#8, agenda := [.timerTick] }).map
    (fun t => (t.dt, t.st, t.pc)) = some (4#8, 0#8, 0x200#16) := by decide
theorem test_halted_step : stepped haltedState = some haltedState := by rfl
theorem test_halted_tick : stepped { haltedState with agenda := [.timerTick] } = some haltedState := by rfl
theorem test_halted_host_write : stepped { haltedState with agenda := [.hostWriteMem 0x300#12 0x12#8] }
    = some { haltedState with mem := [(0x201, 0x01#8), (0x300, 0x12#8)] } := by rfl
theorem test_halted_reset : stepped { haltedState with agenda := [.reset] } = some State.reset := by rfl
theorem test_reset_font : [0, 1, 2, 3, 4, 0x50, 0x200].map State.reset.readMem
    = [0xF0#8, 0x90#8, 0x90#8, 0x90#8, 0xF0#8, 0#8, 0#8] := by decide
theorem test_write_of_the_background_byte :
    (((State.reset.writeMem 0x300 0x12#8).writeMem 0 0xF1#8).writeMem 0x300 0#8).mem = [(0, 0xF1#8)] := by decide

/-! ### Witnesses: states and operands that meet the hypotheses of each statement, clause by clause -/

theorem witness_EncodeOfDecode : decode 0x8124#16 = .ok (.addReg 1#4 2#4) := by decide
theorem witness_DecodeSelectsTheTableRow : ∃ r ∈ dispatchTable, (0x8124#16 : Word) &&& r.mask = r.pattern := ⟨⟨15, 0x8004#16, 0xF00F#16⟩, by decide, by decide⟩
/-- The last word of memory holds a jump to itself. -/
def lastWordState : State := { State.reset with mem := [(0xFFE, 0x1F#8), (0xFFF, 0xFE#8)], pc := 0xFFE#16 }
theorem witness_StepRuns : lastWordState.ready ∧ lastWordState.pc.toNat + 1 < 4096 ∧
    decode (lastWordState.readMem lastWordState.pc.toNat ++ lastWordState.readMem (lastWordState.pc.toNat + 1)) = .ok (.jp 0xFFE#12) ∧
    lastWordState.agenda = [] := ⟨rfl, by decide, by decide, rfl⟩
theorem witness_StepRuns_scheduled : ({ lastWordState with agenda := [.step, .timerTick] } : State).ready ∧
    ({ lastWordState with agenda := [.step, .timerTick] } : State).agenda = .step :: [.timerTick] := ⟨rfl, rfl⟩
theorem witness_FetchOutside : ({ State.reset with pc := 0xFFF#16 } : State).ready ∧
    ({ State.reset with pc := 0xFFF#16 } : State).agenda = [] ∧
    4096 ≤ ({ State.reset with pc := 0xFFF#16 } : State).pc.toNat + 1 := ⟨rfl, rfl, by decide⟩
/-- The last word of memory is unrecognized. -/
def badWordState : State := { State.reset with mem := [(0xFFF, 0x01#8)], pc := 0xFFE#16 }
theorem witness_UnrecognizedWordFaults : badWordState.ready ∧ badWordState.agenda = [] ∧ badWordState.pc.toNat + 1 < 4096 ∧
    wordWellFormed (badWordState.readMem badWordState.pc.toNat ++ badWordState.readMem (badWordState.pc.toNat + 1)) = false :=
  ⟨rfl, rfl, by decide, by decide⟩
theorem witness_FetchOutside_scheduled : ({ State.reset with pc := 0x10FE#16, agenda := [.step] } : State).ready ∧
    4096 ≤ ({ State.reset with pc := 0x10FE#16, agenda := [.step] } : State).pc.toNat + 1 ∧
    ({ State.reset with pc := 0x10FE#16, agenda := [.step] } : State).agenda = .step :: [] := ⟨rfl, by decide, rfl⟩
/-- The same with a Step and a TimerTick on the agenda. -/
def badWordScheduled : State := { badWordState with agenda := [.step, .timerTick] }
theorem witness_UnrecognizedWordFaults_scheduled : badWordScheduled.ready ∧ badWordScheduled.pc.toNat + 1 < 4096 ∧
    wordWellFormed (badWordScheduled.readMem badWordScheduled.pc.toNat ++
      badWordScheduled.readMem (badWordScheduled.pc.toNat + 1)) = false ∧
    badWordScheduled.agenda = .step :: [.timerTick] := ⟨rfl, by decide, by decide, rfl⟩
theorem witness_HaltedCore : haltedState.latch.faulted = true ∧ haltedState.agenda = [] := ⟨rfl, rfl⟩
theorem witness_HaltedCore_step : ({ haltedState with agenda := [.step] } : State).latch.faulted = true ∧
    ({ haltedState with agenda := [.step] } : State).agenda = .step :: [] := ⟨rfl, rfl⟩
theorem witness_HaltedCore_tick : ({ haltedState with agenda := [.timerTick] } : State).latch.faulted = true ∧
    ({ haltedState with agenda := [.timerTick] } : State).agenda = .timerTick :: [] := ⟨rfl, rfl⟩
theorem witness_HaltedCore_write : ({ haltedState with agenda := [.hostWriteMem 0xFFF#12 1#8] } : State).latch.faulted = true ∧
    ({ haltedState with agenda := [.hostWriteMem 0xFFF#12 1#8] } : State).agenda = .hostWriteMem 0xFFF#12 1#8 :: [] := ⟨rfl, rfl⟩
theorem witness_HaltedCore_keys : ({ haltedState with agenda := [.hostSetKeys 0xFFFF#16] } : State).latch.faulted = true ∧
    ({ haltedState with agenda := [.hostSetKeys 0xFFFF#16] } : State).agenda = .hostSetKeys 0xFFFF#16 :: [] := ⟨rfl, rfl⟩
theorem witness_HaltedCore_reset : ({ haltedState with agenda := [.reset] } : State).latch.faulted = true ∧
    ({ haltedState with agenda := [.reset] } : State).agenda = .reset :: [] := ⟨rfl, rfl⟩
theorem witness_FaultsByTheTable : faultOf State.reset .ret = some (.stackUnderflow, 0#16) ∧
    faultOf { State.reset with sp := 16 } (.call 0x300#12) = some (.stackOverflow, 16#16) ∧
    faultOf { State.reset with i := 0xFFE#16 } (.ldB 0#4) = some (.memOob, 0x1000#16) ∧
    faultOf { State.reset with i := 0xFFFF#16 } (.drw 0#4 0#4 1#4) = some (.memOob, 0xFFFF#16) ∧
    faultOf (withV [(5#4, 0x10#8)]) (.skp 5#4) = some (.keyIndex, 0x10#16) ∧
    faultOf (withV [(5#4, 0xFF#8)]) (.sknp 5#4) = some (.keyIndex, 0xFF#16) ∧
    faultOf (withV [(1#4, 0x10#8)]) (.ldF 1#4) = some (.fontDigit, 0x10#16) ∧
    faultOf { State.reset with i := 0xFFF#16 } (.storeRegs 1#4) = some (.memOob, 0x1000#16) ∧
    faultOf { State.reset with i := 0xFFF#16 } (.loadRegs 1#4) = some (.memOob, 0x1000#16) := by decide
/-- Also for the two whole-machine frames. -/
theorem witness_NoFaultByTheTable : faultOf { State.reset with sp := 1 } .ret = none ∧
    faultOf { State.reset with sp := 15 } (.call 0x300#12) = none ∧
    faultOf { State.reset with i := 0xFFD#16 } (.ldB 0#4) = none ∧
    faultOf { State.reset with i := 0xFFFF#16 } (.drw 0#4 0#4 0#4) = none ∧
    faultOf { State.reset with i := 0xFFF#16 } (.drw 0#4 0#4 1#4) = none ∧
    faultOf (withV [(5#4, 0x0F#8)]) (.skp 5#4) = none ∧ faultOf (withV [(1#4, 0x0F#8)]) (.ldF 1#4) = none ∧
    faultOf { State.reset with i := 0xFFE#16 } (.storeRegs 1#4) = none ∧
    faultOf { State.reset with i := 0xFFE#16 } (.loadRegs 1#4) = none ∧ faultOf haltedState .nop = none := by decide
theorem witness_FaultsArePrecise : badWordState.ready ∧ badWordState.agenda = [] ∧
    ∃ t, step badWordState = .next t ∧ ¬ t.ready := ⟨rfl, rfl, _, rfl, by simp [State.ready]⟩
theorem witness_FaultsArePrecise_scheduled : badWordScheduled.ready ∧ badWordScheduled.agenda = .step :: [.timerTick] ∧
    ∃ t, step badWordScheduled = .next t ∧ ¬ t.ready := ⟨rfl, rfl, _, rfl, by simp [State.ready]⟩
theorem witness_TimerTick : ({ State.reset with st := 255#8, agenda := [.timerTick, .step] } : State).ready ∧
    ({ State.reset with st := 255#8, agenda := [.timerTick, .step] } : State).agenda = .timerTick :: [.step] := ⟨rfl, rfl⟩
theorem witness_HostWriteMem : ({ State.reset with agenda := [.hostWriteMem 0#12 0x12#8] } : State).agenda
    = .hostWriteMem 0#12 0x12#8 :: [] := rfl
theorem witness_HostSetKeys : ({ State.reset with agenda := [.hostSetKeys 0x8001#16] } : State).agenda
    = .hostSetKeys 0x8001#16 :: [] := rfl
theorem witness_Reset : ({ haltedState with agenda := [.reset, .step] } : State).agenda = .reset :: [.step] := rfl
theorem witness_LoadedProgram : imageWellFormed [0x22#8, 0x00#8] = true := by decide
theorem witness_LoadedProgram_longest : imageWellFormed (List.replicate 3584 0xFF#8) = true := by
  rw [imageWellFormed, List.length_replicate]; decide
/-- A state with memory listed, about to store. -/
def storingState : State := { State.reset with mem := [(0, 0xF1#8), (0x200, 0xF0#8), (0x201, 0x55#8), (0xFFE, 9#8)], i := 0xFFE#16 }
theorem witness_StepKeepsMemoryCanonical : memoryCanonical storingState ∧ ∃ t, step storingState = .next t := ⟨rfl, _, rfl⟩
/-- PC and a return address at their bounds. -/
def boundState : State :=
  { State.reset with pc := 0x10FE#16, sp := 1, stack := State.reset.stack.set 0 0x1000#16 }
theorem witness_StepKeepsPcBounded : pcBounded boundState ∧ ∃ t, step boundState = .next t :=
  ⟨⟨by decide, by decide⟩, _, rfl⟩
theorem witness_StepKeepsLatchMeaning : latchMeaning haltedState ∧ ∃ t, step haltedState = .next t :=
  ⟨⟨(fun h => nomatch h), fun _ => ⟨rfl, .inr (.inl ⟨rfl, rfl, by decide⟩)⟩⟩, _, rfl⟩
theorem witness_OnlyResetEndsTheHalt : haltedState.latch.faulted = true ∧ (∀ rest, haltedState.agenda ≠ .reset :: rest) ∧
    ∃ t, step haltedState = .next t := ⟨rfl, (fun _ h => nomatch h), _, rfl⟩
/-- A jump to an even target stands at PC. -/
def evenState : State := { State.reset with mem := [(0x200, 0x12#8), (0x201, 0x34#8)] }
theorem witness_EvenTargets : pcEven evenState ∧ (∀ i, decode evenState.fetchWord = .ok i → evenTarget evenState i) ∧
    ∃ t, step evenState = .next t := by
  refine ⟨⟨by decide, by decide⟩, fun i h => ?_, _, rfl⟩
  have hd : decode evenState.fetchWord = .ok (.jp 0x234#12) := by decide
  rw [hd] at h
  cases h
  rfl
/-- A state whose odd addresses 0x201 and 0x202 hold a CLS. -/
def oddState : State := { State.reset with mem := [(0x202, 0xE0#8)] }
theorem witness_JumpTarget_odd : oddState.ready ∧ oddState.agenda = [] ∧ (0x201#12 : Addr).toNat + 1 < 4096 ∧
    decode (oddState.readMem (0x201#12 : Addr).toNat ++ oddState.readMem ((0x201#12 : Addr).toNat + 1)) = .ok .cls :=
  ⟨rfl, rfl, by decide, by decide⟩
theorem witness_JumpTarget_last : lastWordState.ready ∧ (0xFFE#12 : Addr).toNat + 1 < 4096 ∧
    decode (lastWordState.readMem (0xFFE#12 : Addr).toNat ++ lastWordState.readMem ((0xFFE#12 : Addr).toNat + 1))
      = .ok (.jp 0xFFE#12) := ⟨rfl, by decide, by decide⟩
theorem witness_JumpTarget_scheduled : ({ oddState with agenda := [.step] } : State).ready ∧
    ({ oddState with agenda := [.step] } : State).agenda = .step :: [] := ⟨rfl, rfl⟩
theorem witness_ReadGivesTheLatestWrite : (0 < 4096) ∧ (4095 < 4096) := by decide
/-- A state about to store V0 and V1 at the last two addresses, and one that fetches from there. -/
def patchState : State := (withV [(0#4, 0x73#8), (1#4, 0x05#8)]).setI 0xFFE#16
theorem witness_StoredWord : patchState.i.toNat + (1#4 : Nibble).toNat < 4096 ∧
    (1#4 : Nibble).toNat = (0#4 : Nibble).toNat + 1 ∧ (1#4 : Nibble).toNat ≤ (1#4 : Nibble).toNat ∧
    ∃ t, exec (.storeRegs 1#4) patchState = .next t ∧ ∃ u : State, u.mem = t.mem ∧ u.font = t.font ∧
      u.pc.toNat = patchState.i.toNat + (0#4 : Nibble).toNat :=
  ⟨by decide, by decide, by decide, _, rfl, ((patchState.fetched).storeBytes 0xFFE [0x73#8, 0x05#8]).setPc 0xFFE#16, rfl, rfl, rfl⟩
theorem witness_Ret : ({ State.reset with sp := 16 } : State).sp.val = (15 : Fin 16).val + 1 ∧ State.reset.sp.val = 0 := by decide
theorem witness_Call : ({ State.reset with sp := 15 } : State).sp.val = (15 : Fin 16).val ∧
    ({ State.reset with sp := 16 } : State).sp.val = 16 := by decide
theorem witness_ReturnResumes : ({ State.reset with sp := 15 } : State).sp.val < 16 ∧
    ∃ t, exec (.call 0x300#12) { State.reset with sp := 15 } = .next t ∧ ∃ u : State, u.stack = t.stack ∧ u.sp = t.sp :=
  ⟨by decide, _, rfl, _, rfl, rfl⟩
/-- The first operand of the two-register statements away from VF and at its highest value; the flags' clauses hold of every X. -/
theorem witness_XIsNotF : (0xE#4 : Nibble) ≠ 0xF#4 ∧ (0#4 : Nibble) ≠ 0xF#4 := by decide
theorem witness_Random_fixed : ({ State.reset with rndIn := [0xAB#8] } : State).rndIn = 0xAB#8 :: [] := rfl
theorem witness_Random_free : State.reset.rndIn = [] := rfl
theorem witness_FontAddress : ((withV [(1#4, 15#8)]).getV 1#4).toNat ≤ 15 ∧ 15 < ((withV [(1#4, 16#8)]).getV 1#4).toNat := by decide
theorem witness_Bcd : ({ State.reset with i := 0xFFD#16 } : State).i.toNat + 2 < 4096 ∧
    4096 ≤ ({ State.reset with i := 0xFFE#16 } : State).i.toNat + 2 := by decide
/-- Also for FX65. -/
theorem witness_RegisterSave : ({ State.reset with i := 0xFF0#16 } : State).i.toNat + (15#4 : Nibble).toNat < 4096 ∧
    4096 ≤ ({ State.reset with i := 0xFF1#16 } : State).i.toNat + (15#4 : Nibble).toNat := by decide
theorem witness_Draw_no_rows : (0#4 : Nibble).toNat = 0 := rfl
theorem witness_Draw_inside : ({ State.reset with i := 0xFFE#16 } : State).i.toNat + (2#4 : Nibble).toNat - 1 < 4096 := by decide
theorem witness_Draw_outside : 0 < (3#4 : Nibble).toNat ∧
    4096 ≤ ({ State.reset with i := 0xFFE#16 } : State).i.toNat + (3#4 : Nibble).toNat - 1 := by decide
/-- One row with its two end bits set, at column 63, and the pixel in column 6 (the wrapped end) on. -/
def spriteState : State :=
  { withI 0x300#16 [0x81#8] (withV [(1#4, 63#8)]) with disp := BitVec.twoPow 2048 6 }
theorem witness_Draw_collision : ∃ px < 64, ∃ py < 32,
    spriteCovers spriteState 1#4 2#4 1#4 px py ∧ spriteState.pixel px py = true :=
  ⟨6, by decide, 0, by decide, ⟨0, 7, by decide, by decide, by decide, by decide, by decide⟩, by decide⟩
theorem witness_Draw_covers_not : ¬ spriteCovers spriteState 1#4 2#4 1#4 0 1 := by
  rintro ⟨r, c, hr, -, -, -, hy⟩
  have h1 : (1#4 : Nibble).toNat = 1 := rfl
  have h2 : (spriteState.getV 2#4).toNat = 0 := by decide
  omega
theorem witness_Draw_no_collision : ∀ px < 64, ∀ py < 32,
    spriteCovers State.reset 1#4 2#4 1#4 px py → State.reset.pixel px py = false := by
  intro px _ py _ _
  simp [State.pixel, State.reset]
theorem witness_DrawingTwice : (1#4 : Nibble) ≠ 0xF#4 ∧ (2#4 : Nibble) ≠ 0xF#4 ∧
    ({ State.reset with i := 0xFFF#16 } : State).i.toNat + (1#4 : Nibble).toNat ≤ 4096 ∧
    ({ State.reset with i := 0xFFF#16 } : State).disp = 0#2048 := ⟨by decide, by decide, by decide, rfl⟩
theorem witness_KeySkips : ((withV [(5#4, 15#8)]).getV 5#4).toNat ≤ 15 ∧ 15 < ((withV [(5#4, 16#8)]).getV 5#4).toNat := by decide
theorem witness_KeyWait_down : ({ State.reset with keys := 0x8000#16 } : State).keys.getLsbD 15 = true ∧
    (∀ j < 15, ({ State.reset with keys := 0x8000#16 } : State).keys.getLsbD j = false) := by decide
theorem witness_KeyWait_up : ∀ k < 16, State.reset.keys.getLsbD k = false := by decide

end Sys2Proof.Tests
end

/-! SUPPORT. The control family (40_control.md): NOP (R63) and the skips on a comparison (R67 to R70). -/

namespace Sys2Proof.Machine

/-! ### Writing PC alone, in the words of the statements -/

/-- Every frame holds of a write to PC, which is none of the pieces a frame speaks of. -/
theorem unchangedBut_setPc (written : List Part) (s : State) (w : Word) : unchangedBut written s (s.setPc w) := by
  intro p _
  cases p <;> simp [Part.same]

theorem unchangedBut_fetched (written : List Part) (s : State) : unchangedBut written s s.fetched :=
  unchangedBut_setPc written s (s.pc + 2#16)

/-- Taken or not, a skip after the fetch only rewrites PC. -/
theorem unchangedBut_skipIf_fetched (written : List Part) (s : State) (c : Bool) :
    unchangedBut written s (s.fetched.skipIf c) := by
  cases c with
  | false => exact unchangedBut_fetched written s
  | true => exact unchangedBut_setPc written s (s.fetched.pc + 2#16)

/-- The fetch alone moves PC past the instruction's word (R55). -/
theorem pcAdvanced_fetched (s : State) : pcAdvanced s s.fetched := BitVec.toNat_add s.pc 2#16

/-! ### NOP and the skips -/

theorem exec_nop (s : State) : exec .nop s = .next s.fetched := rfl

theorem exec_seImm (x : Nibble) (nn : Byte) (s : State) :
    exec (.seImm x nn) s = .next (s.fetched.skipIf (s.getV x == nn)) := rfl

theorem exec_sneImm (x : Nibble) (nn : Byte) (s : State) :
    exec (.sneImm x nn) s = .next (s.fetched.skipIf (s.getV x != nn)) := rfl

theorem exec_seReg (x y : Nibble) (s : State) :
    exec (.seReg x y) s = .next (s.fetched.skipIf (s.getV x == s.getV y)) := rfl

theorem exec_sneReg (x y : Nibble) (s : State) :
    exec (.sneReg x y) s = .next (s.fetched.skipIf (s.getV x != s.getV y)) := rfl

/-- What an instruction does that is a skip on equality of two bytes. -/
theorem skip_of_eq {i : Instr} {s : State} {a b : Byte} (h : exec i s = .next (s.fetched.skipIf (a == b))) :
    ∃ t, exec i s = .next t ∧ t.pc.toNat = (s.pc.toNat + if a = b then 4 else 2) % 65536 ∧ unchangedBut [] s t := by
  refine ⟨_, h, ?_, unchangedBut_skipIf_fetched [] s (a == b)⟩
  rw [State.skipIf_fetched_pc]
  simp only [beq_iff_eq]

/-- What an instruction does that is a skip on difference of two bytes. -/
theorem skip_of_ne {i : Instr} {s : State} {a b : Byte} (h : exec i s = .next (s.fetched.skipIf (a != b))) :
    ∃ t, exec i s = .next t ∧ t.pc.toNat = (s.pc.toNat + if a = b then 2 else 4) % 65536 ∧ unchangedBut [] s t := by
  refine ⟨_, h, ?_, unchangedBut_skipIf_fetched [] s (a != b)⟩
  rw [State.skipIf_fetched_pc]
  simp only [bne_iff_ne, ne_eq, ite_not]

/-- The `REG_REG` layout with sub-operation 0, as its rules write it: the fourth field adds nothing. -/
theorem packRegReg_zero_eq_or (d x y : Nibble) :
    packRegReg d x y 0#4 = BitVec.ofNat 16 (d.toNat * 4096) ||| x.setWidth 16 <<< 8 ||| y.setWidth 16 <<< 4 := by
  rw [packRegReg_eq_or, BitVec.setWidth_zero, BitVec.or_zero]

/-! ### The statements -/

/-- Settles O36: each skip is the fetch's advance followed by one conditional advance of PC. -/
theorem immediateSkips : Obligations.ImmediateSkips := by
  intro x nn s
  exact ⟨packRegImm_eq_or 0x3#4 x nn, packRegImm_eq_or 0x4#4 x nn,
    skip_of_eq (exec_seImm x nn s), skip_of_ne (exec_sneImm x nn s)⟩

/-- Settles O37: as O36, with a register for the immediate; nothing distinguishes X = Y. -/
theorem registerSkips : Obligations.RegisterSkips := by
  intro x y s
  exact ⟨packRegReg_zero_eq_or 0x5#4 x y, packRegReg_zero_eq_or 0x9#4 x y,
    skip_of_eq (exec_seReg x y s), skip_of_ne (exec_sneReg x y s)⟩

/-- Settles O31: NOP's next state is the fetched one. -/
theorem nopOnlyAdvancesPc : Obligations.NopOnlyAdvancesPc :=
  ⟨rfl, fun s => ⟨s.fetched, exec_nop s, pcAdvanced_fetched s, unchangedBut_fetched [] s⟩⟩

end Sys2Proof.Machine

/-! SUPPORT. The register loads and the immediate addition (41_alu.md R73 to R75): one register written after the fetch. -/

namespace Sys2Proof.Machine

/-! ### Writing one register after the fetch, in the words of the statements -/

/-- A write to a register leaves every piece of state but the register file. -/
theorem unchangedBut_fetched_setV (s : State) (x : Nibble) (b : Byte) : unchangedBut [.v] s (s.fetched.setV x b) := by
  intro p hp
  cases p with
  | v => exact absurd (List.mem_singleton_self Part.v) hp
  | _ => simp [Part.same]

theorem registersUnchangedBut_fetched_setV (s : State) (x : Nibble) (b : Byte) :
    registersUnchangedBut [x] s (s.fetched.setV x b) := by
  intro r hr
  have hne : r ≠ x := List.ne_of_not_mem_cons hr
  rw [State.getV_setV_of_ne _ _ _ _ hne, State.getV_fetched]

/-- A register write does not touch the PC that the fetch has advanced. -/
theorem pcAdvanced_fetched_setV (s : State) (x : Nibble) (b : Byte) : pcAdvanced s (s.fetched.setV x b) :=
  pcAdvanced_fetched s

/-- What an instruction does that writes one register after the fetch; VF is a register like the others (R15). -/
theorem registerWrite_of_exec {i : Instr} {s : State} {x : Nibble} {b : Byte}
    (h : exec i s = .next (s.fetched.setV x b)) :
    ∃ t, exec i s = .next t ∧ t.getV x = b ∧ registersUnchangedBut [x] s t ∧ pcAdvanced s t ∧
      unchangedBut [.v] s t :=
  ⟨_, h, State.getV_setV_self s.fetched x b, registersUnchangedBut_fetched_setV s x b,
    pcAdvanced_fetched_setV s x b, unchangedBut_fetched_setV s x b⟩

/-! ### The loads and the immediate addition -/

theorem exec_ldImm (x : Nibble) (nn : Byte) (s : State) : exec (.ldImm x nn) s = .next (s.fetched.setV x nn) := rfl

theorem exec_addImm (x : Nibble) (nn : Byte) (s : State) :
    exec (.addImm x nn) s = .next (s.fetched.setV x (s.getV x + nn)) := rfl

theorem exec_ldReg (x y : Nibble) (s : State) : exec (.ldReg x y) s = .next (s.fetched.setV x (s.getV y)) := rfl

/-! ### The statements -/

/-- Settles O40: the one register written is `V[x]`, and the byte written is the sum of two bytes, which wraps. -/
theorem addImmediateWrapsWithoutFlag : Obligations.AddImmediateWrapsWithoutFlag := by
  intro x nn s
  obtain ⟨t, ht, hx, hframe⟩ := registerWrite_of_exec (exec_addImm x nn s)
  have hsum : (t.getV x).toNat = ((s.getV x).toNat + nn.toNat) % 256 := by
    rw [hx, BitVec.toNat_add]
  exact ⟨packRegImm_eq_or 0x7#4 x nn, t, ht, hsum, hframe⟩

/-- Settles O39: both loads are one register write after the fetch. -/
theorem registerLoads : Obligations.RegisterLoads := by
  intro x y nn s
  exact ⟨packRegImm_eq_or 0x6#4 x nn, packRegReg_zero_eq_or 0x8#4 x y,
    registerWrite_of_exec (exec_ldImm x nn s), registerWrite_of_exec (exec_ldReg x y s)⟩

end Sys2Proof.Machine

/-! SUPPORT. The display clear (43_display.md R92): the display replaced after the fetch. -/

namespace Sys2Proof.Machine

/-! ### Replacing the display after the fetch, in the words of the statements -/

/-- Replacing the display leaves every other piece of state as the fetch left it. -/
theorem unchangedBut_fetched_setDisp (s : State) (d : BitVec 2048) : unchangedBut [.disp] s (s.fetched.setDisp d) := by
  intro p hp
  cases p with
  | disp => exact absurd (List.mem_singleton_self Part.disp) hp
  | _ => simp [Part.same]

/-- Replacing the display does not touch the PC that the fetch has advanced. -/
theorem pcAdvanced_fetched_setDisp (s : State) (d : BitVec 2048) : pcAdvanced s (s.fetched.setDisp d) :=
  pcAdvanced_fetched s

/-- On the all-zero display every pixel is off. -/
theorem pixel_setDisp_zero (s : State) (x y : Nat) : (s.setDisp 0#2048).pixel x y = false :=
  BitVec.getLsbD_zero

theorem exec_cls (s : State) : exec .cls s = .next (s.fetched.setDisp 0#2048) := rfl

/-! ### The statement -/

/-- Settles O51: the next state is the fetched one with the all-zero display. -/
theorem clearTurnsEveryPixelOff : Obligations.ClearTurnsEveryPixelOff :=
  ⟨rfl, fun s => ⟨s.fetched.setDisp 0#2048, exec_cls s, fun x _ y _ => pixel_setDisp_zero s.fetched x y,
    pcAdvanced_fetched_setDisp s 0#2048, unchangedBut_fetched_setDisp s 0#2048⟩⟩

end Sys2Proof.Machine

/-! SUPPORT. Keys and timers (44_keys_timers.md R98 to R101): the timer copies and the wait for a key. -/

namespace Sys2Proof.Machine

/-! ### Writing a timer after the fetch, in the words of the statements -/

theorem unchangedBut_fetched_setDt (s : State) (b : Byte) : unchangedBut [.dt] s (s.fetched.setDt b) := by
  intro p hp
  cases p with
  | dt => exact absurd (List.mem_singleton_self Part.dt) hp
  | _ => simp [Part.same]

theorem unchangedBut_fetched_setSt (s : State) (b : Byte) : unchangedBut [.st] s (s.fetched.setSt b) := by
  intro p hp
  cases p with
  | st => exact absurd (List.mem_singleton_self Part.st) hp
  | _ => simp [Part.same]

/-- A write to DT does not touch the PC that the fetch has advanced. -/
theorem pcAdvanced_fetched_setDt (s : State) (b : Byte) : pcAdvanced s (s.fetched.setDt b) :=
  pcAdvanced_fetched s

/-- A write to ST does not touch the PC that the fetch has advanced. -/
theorem pcAdvanced_fetched_setSt (s : State) (b : Byte) : pcAdvanced s (s.fetched.setSt b) :=
  pcAdvanced_fetched s

/-- The tone sounds from a write to ST on exactly when the byte written is not zero (R37). -/
theorem toneOutput_setSt (s : State) (b : Byte) : toneOutput (s.setSt b) = (b != 0#8) := rfl

/-! ### The `REG_OP` layout and the step back over the fetch -/

/-- The `REG_OP` layout as its rules write it: family and sub-operation are one constant, and X goes between them. -/
theorem packRegImm_eq_base_or (d x : Nibble) (op : Byte) :
    packRegImm d x op = (BitVec.ofNat 16 (d.toNat * 4096) ||| op.setWidth 16) ||| x.setWidth 16 <<< 8 := by
  rw [packRegImm_eq_or, BitVec.or_assoc, BitVec.or_assoc, BitVec.or_comm (op.setWidth 16)]

/-- PC taken back by two undoes the fetch, and with it the whole step so far (R99). -/
theorem setPc_back_fetched (s : State) : s.fetched.setPc (s.fetched.pc - 2#16) = s := by
  rw [State.fetched_pc, BitVec.add_sub_cancel]
  rfl

/-! ### The instructions -/

theorem exec_ldVxDt (x : Nibble) (s : State) : exec (.ldVxDt x) s = .next (s.fetched.setV x s.dt) := rfl

theorem exec_ldDtVx (x : Nibble) (s : State) : exec (.ldDtVx x) s = .next (s.fetched.setDt (s.getV x)) := rfl

theorem exec_ldStVx (x : Nibble) (s : State) : exec (.ldStVx x) s = .next (s.fetched.setSt (s.getV x)) := rfl

/-- The wait ends with the key that the scan finds. -/
theorem exec_ldVxK_of_some {s : State} {k : Nat} (x : Nibble) (h : s.lowestKey = some k) :
    exec (.ldVxK x) s = .next (s.fetched.setV x (BitVec.ofNat 8 k)) := by
  show execLdVxK x s = _
  rw [execLdVxK, h]

/-- While the scan finds no key, the wait leaves the state it started from. -/
theorem exec_ldVxK_of_none {s : State} (x : Nibble) (h : s.lowestKey = none) : exec (.ldVxK x) s = .next s := by
  show execLdVxK x s = _
  rw [execLdVxK, h, setPc_back_fetched]

/-! ### The statements -/

/-- Settles O55: the scan finds the lowest pressed key, whose number fits a byte; with none down the fetch is undone. -/
theorem keyWaitTakesTheLowestKeyOrRedoes : Obligations.KeyWaitTakesTheLowestKeyOrRedoes := by
  intro x s
  refine ⟨packRegImm_eq_base_or 0xF#4 x 0x0A#8, fun k hk hdown hlower => ?_, fun hup => ?_⟩
  · have hscan : s.lowestKey = some k := (State.lowestKey_eq_some s k).2 ⟨hk, hdown, hlower⟩
    obtain ⟨t, ht, hx, hframe⟩ := registerWrite_of_exec (exec_ldVxK_of_some x hscan)
    have hkey : (t.getV x).toNat = k := by
      rw [hx, BitVec.toNat_ofNat, Nat.mod_eq_of_lt (by omega)]
    exact ⟨t, ht, hkey, hframe⟩
  · exact exec_ldVxK_of_none x ((State.lowestKey_eq_none s).2 hup)

/-- Settles O56: the read of DT is one register write after the fetch. -/
theorem delayTimerRead : Obligations.DelayTimerRead := by
  intro x s
  exact ⟨packRegImm_eq_base_or 0xF#4 x 0x07#8, registerWrite_of_exec (exec_ldVxDt x s)⟩

/-- Settles O57: each copy is one timer write after the fetch, and the tone is read off the ST written. -/
theorem timerWrites : Obligations.TimerWrites := by
  intro x s
  refine ⟨packRegImm_eq_base_or 0xF#4 x 0x15#8, packRegImm_eq_base_or 0xF#4 x 0x18#8, ?_, ?_⟩
  · exact ⟨_, exec_ldDtVx x s, State.setDt_dt s.fetched (s.getV x), pcAdvanced_fetched_setDt s (s.getV x),
      unchangedBut_fetched_setDt s (s.getV x)⟩
  · exact ⟨_, exec_ldStVx x s, State.setSt_st s.fetched (s.getV x), toneOutput_setSt s.fetched (s.getV x),
      pcAdvanced_fetched_setSt s (s.getV x), unchangedBut_fetched_setSt s (s.getV x)⟩

end Sys2Proof.Machine

/-! SUPPORT. The encoding (30_encoding.md R56 to R59): decode and encode are inverse on the accepted words, the accepted
words are those that a row of the dispatch table selects, and the others are the families of R59. -/

namespace Sys2Proof

/-! ### Decoding after encoding -/

/-- Settles O1: the family of a packed word is the one packed, and so is each field its arm of the decoder reads. -/
theorem decodeOfEncodeIsTheInstruction : Obligations.DecodeOfEncodeIsTheInstruction := by
  intro i
  cases i with
  | nop => rfl
  | cls => rfl
  | ret => rfl
  | ldReg | orReg | andReg | xorReg | addReg | subReg | shr | subn | shl => simp [encode, decode, decodeAlu]
  | skp | sknp => simp [encode, decode, decodeKey]
  | ldVxDt | ldVxK | ldDtVx | ldStVx | addI | ldF | ldB | storeRegs | loadRegs => simp [encode, decode, decodeMisc]
  | _ => simp [encode, decode]

/-- Settles O5: the decoder evaluated on eight words. -/
theorem sampleWordsDecode : Obligations.SampleWordsDecode := by
  unfold Obligations.SampleWordsDecode
  decide

/-! ### Encoding after decoding -/

/-- A word whose family is known is the `ADDR` layout of that family and its address field. -/
theorem packAddr_of_family {w : Word} {d : Nibble} (h : (fieldD1 w).toNat = d.toNat) :
    packAddr d (fieldNNN w) = w := by
  rw [← BitVec.eq_of_toNat_eq h, packAddr_fields]

theorem packRegImm_of_family {w : Word} {d : Nibble} (h : (fieldD1 w).toNat = d.toNat) :
    packRegImm d (fieldX w) (fieldNN w) = w := by
  rw [← BitVec.eq_of_toNat_eq h, packRegImm_fields]

theorem packRegReg_of_family {w : Word} {d : Nibble} (h : (fieldD1 w).toNat = d.toNat) :
    packRegReg d (fieldX w) (fieldY w) (fieldN w) = w := by
  rw [← BitVec.eq_of_toNat_eq h, packRegReg_fields]

/-- A word whose family and last field are known is the `REG_REG` layout of the two. -/
theorem packRegReg_of_family_op {w : Word} {d n : Nibble} (h : (fieldD1 w).toNat = d.toNat)
    (hn : (fieldN w).toNat = n.toNat) : packRegReg d (fieldX w) (fieldY w) n = w := by
  rw [← BitVec.eq_of_toNat_eq hn, packRegReg_of_family h]

/-- A word whose family and low byte are known is the `REG_OP` layout of the two. -/
theorem packRegImm_of_family_op {w : Word} {d : Nibble} {op : Byte} (h : (fieldD1 w).toNat = d.toNat)
    (hop : (fieldNN w).toNat = op.toNat) : packRegImm d (fieldX w) op = w := by
  rw [← BitVec.eq_of_toNat_eq hop, packRegImm_of_family h]

theorem encode_of_decodeSystem {w : Word} {i : Instr} (h : decodeSystem w = .ok i) : encode i = w := by
  unfold decodeSystem at h
  split at h
  · cases h; simp [encode, *]
  · split at h
    · cases h; simp [encode, *]
    · split at h
      · cases h; simp [encode, *]
      · cases h

theorem encode_of_decodeAlu {w : Word} {i : Instr} (hd : (fieldD1 w).toNat = 8) (h : decodeAlu w = .ok i) :
    encode i = w := by
  unfold decodeAlu at h
  split at h <;> cases h <;> exact packRegReg_of_family_op hd ‹_›

theorem encode_of_decodeKey {w : Word} {i : Instr} (hd : (fieldD1 w).toNat = 14) (h : decodeKey w = .ok i) :
    encode i = w := by
  unfold decodeKey at h
  split at h <;> cases h <;> exact packRegImm_of_family_op hd ‹_›

theorem encode_of_decodeMisc {w : Word} {i : Instr} (hd : (fieldD1 w).toNat = 15) (h : decodeMisc w = .ok i) :
    encode i = w := by
  unfold decodeMisc at h
  split at h <;> cases h <;> exact packRegImm_of_family_op hd ‹_›

/-- Settles O2: each arm of the decoder keeps every field of the word, so packing them again gives the word. -/
theorem encodeOfDecodeIsTheWord : Obligations.EncodeOfDecodeIsTheWord := by
  intro w i h
  unfold decode at h
  split at h
  case h_1 => exact encode_of_decodeSystem h
  case h_9 hd => exact encode_of_decodeAlu hd h
  case h_15 hd => exact encode_of_decodeKey hd h
  case h_16 hd => exact encode_of_decodeMisc hd h
  case h_6 hd =>
    split at h
    · cases h; exact packRegReg_of_family_op hd (congrArg BitVec.toNat ‹_›)
    · cases h
  case h_10 hd =>
    split at h
    · cases h; exact packRegReg_of_family_op hd (congrArg BitVec.toNat ‹_›)
    · cases h
  case h_2 hd | h_3 hd | h_11 hd | h_12 hd => cases h; exact packAddr_of_family hd
  case h_4 hd | h_5 hd | h_7 hd | h_8 hd | h_13 hd => cases h; exact packRegImm_of_family hd
  case h_14 hd => cases h; exact packRegReg_of_family hd
  case h_17 => cases h


/-! ### The unrecognized words, family by family -/

theorem decodeSystem_error_iff (w : Word) :
    decodeSystem w = .error (.unrecognized w) ↔ w ≠ 0x0000#16 ∧ w ≠ 0x00E0#16 ∧ w ≠ 0x00EE#16 := by
  unfold decodeSystem
  split_ifs <;> simp [*]

theorem decodeAlu_error_iff (w : Word) :
    decodeAlu w = .error (.unrecognized w) ↔ w.toNat % 16 ∈ [0x8, 0x9, 0xA, 0xB, 0xC, 0xD, 0xF] := by
  have hlt : w.toNat % 16 < 16 := Nat.mod_lt _ (by decide)
  unfold decodeAlu
  rw [fieldN_toNat]
  generalize w.toNat % 16 = n at hlt ⊢
  interval_cases n <;> simp

theorem decodeKey_error_iff (w : Word) :
    decodeKey w = .error (.unrecognized w) ↔ w.toNat % 256 ∉ [0x9E, 0xA1] := by
  unfold decodeKey
  rw [fieldNN_toNat]
  split <;> simp_all

theorem decodeMisc_error_iff (w : Word) :
    decodeMisc w = .error (.unrecognized w) ↔
      w.toNat % 256 ∉ [0x07, 0x0A, 0x15, 0x18, 0x1E, 0x29, 0x33, 0x55, 0x65] := by
  unfold decodeMisc
  rw [fieldNN_toNat]
  split <;> simp_all

theorem fieldN_eq_zero_iff (w : Word) : fieldN w = 0#4 ↔ w.toNat % 16 = 0 := by
  rw [← fieldN_toNat, ← BitVec.toNat_inj]
  rfl

/-- Settles O4: only the families 0, 5, 8, 9, E and F have unrecognized words, each its own list. -/
theorem unrecognizedWordsAreTheListedFamilies : Obligations.UnrecognizedWordsAreTheListedFamilies := by
  intro w
  have hw := w.isLt
  have hfamily : w.toNat ≤ 0x0FFF ↔ w.toNat / 4096 = 0 := by omega
  have hlt : w.toNat / 4096 < 16 := by omega
  unfold decode
  rw [fieldD1_toNat, hfamily]
  generalize w.toNat / 4096 = d at hlt ⊢
  interval_cases d <;>
    simp [decodeSystem_error_iff, decodeAlu_error_iff, decodeKey_error_iff, decodeMisc_error_iff, fieldN_eq_zero_iff]

/-! ### The rows of the dispatch table -/

/-- The class numbers the rows: no two rows have the same. -/
theorem row_eq_of_cls_eq : ∀ r ∈ dispatchTable, ∀ q ∈ dispatchTable, r.cls = q.cls → r = q := by
  decide

/-- Two rows that agree where both their masks look are the same row. -/
theorem row_eq_of_agree : ∀ r ∈ dispatchTable, ∀ q ∈ dispatchTable,
    r.pattern &&& q.mask = q.pattern &&& r.mask → r = q := by
  decide

/-- No word matches two rows. -/
theorem row_eq_of_selects {w : Word} {r q : Row} (hr : r ∈ dispatchTable) (hq : q ∈ dispatchTable)
    (hwr : w &&& r.mask = r.pattern) (hwq : w &&& q.mask = q.pattern) : r = q := by
  refine row_eq_of_agree r hr q hq ?_
  rw [← hwr, ← hwq, BitVec.and_assoc, BitVec.and_assoc, BitVec.and_comm r.mask]

/-- Every instruction's word is in the row of its class. -/
theorem encodedInRow (i : Instr) : Laws.EncodedInRow.Statement i :=
  match i with
  | .nop => Laws.EncodedInRow.nop
  | .cls => Laws.EncodedInRow.cls
  | .ret => Laws.EncodedInRow.ret
  | .jp nnn => Laws.EncodedInRow.jp nnn
  | .call nnn => Laws.EncodedInRow.call nnn
  | .seImm x nn => Laws.EncodedInRow.seImm x nn
  | .sneImm x nn => Laws.EncodedInRow.sneImm x nn
  | .seReg x y => Laws.EncodedInRow.seReg x y
  | .ldImm x nn => Laws.EncodedInRow.ldImm x nn
  | .addImm x nn => Laws.EncodedInRow.addImm x nn
  | .ldReg x y => Laws.EncodedInRow.ldReg x y
  | .orReg x y => Laws.EncodedInRow.orReg x y
  | .andReg x y => Laws.EncodedInRow.andReg x y
  | .xorReg x y => Laws.EncodedInRow.xorReg x y
  | .addReg x y => Laws.EncodedInRow.addReg x y
  | .subReg x y => Laws.EncodedInRow.subReg x y
  | .shr x y => Laws.EncodedInRow.shr x y
  | .subn x y => Laws.EncodedInRow.subn x y
  | .shl x y => Laws.EncodedInRow.shl x y
  | .sneReg x y => Laws.EncodedInRow.sneReg x y
  | .ldI nnn => Laws.EncodedInRow.ldI nnn
  | .jpV0 nnn => Laws.EncodedInRow.jpV0 nnn
  | .rnd x nn => Laws.EncodedInRow.rnd x nn
  | .drw x y n => Laws.EncodedInRow.drw x y n
  | .skp x => Laws.EncodedInRow.skp x
  | .sknp x => Laws.EncodedInRow.sknp x
  | .ldVxDt x => Laws.EncodedInRow.ldVxDt x
  | .ldVxK x => Laws.EncodedInRow.ldVxK x
  | .ldDtVx x => Laws.EncodedInRow.ldDtVx x
  | .ldStVx x => Laws.EncodedInRow.ldStVx x
  | .addI x => Laws.EncodedInRow.addI x
  | .ldF x => Laws.EncodedInRow.ldF x
  | .ldB x => Laws.EncodedInRow.ldB x
  | .storeRegs x => Laws.EncodedInRow.storeRegs x
  | .loadRegs x => Laws.EncodedInRow.loadRegs x

/-- A word that decodes is selected by the row of the instruction read from it. -/
theorem selected_of_decode {w : Word} {i : Instr} (h : decode w = .ok i) :
    ∃ r ∈ dispatchTable, r.cls = i.rowClass ∧ w &&& r.mask = r.pattern := by
  have hw : encode i = w := encodeOfDecodeIsTheWord w i h
  exact hw ▸ encodedInRow i

/-! What a row's mask and pattern say of the fields of a word that it selects. -/

theorem fieldD1_and (w m : Word) : fieldD1 (w &&& m) = fieldD1 w &&& fieldD1 m := BitVec.extractLsb'_and
theorem fieldN_and (w m : Word) : fieldN (w &&& m) = fieldN w &&& fieldN m := BitVec.extractLsb'_and
theorem fieldNN_and (w m : Word) : fieldNN (w &&& m) = fieldNN w &&& fieldNN m := BitVec.extractLsb'_and


/-- Every mask looks at the whole family, so a row fixes the family of the words it selects. -/
theorem fieldD1_of_selects {w : Word} {r : Row} (hr : r ∈ dispatchTable) (h : w &&& r.mask = r.pattern) :
    fieldD1 w = fieldD1 r.pattern := by
  have hmask : ∀ r ∈ dispatchTable, fieldD1 r.mask = BitVec.allOnes 4 := by decide
  rw [← h, fieldD1_and, hmask r hr, BitVec.and_allOnes]

theorem fieldN_of_selects {w p : Word} (h : w &&& 0xF00F#16 = p) : fieldN w = fieldN p := by
  rw [← h, fieldN_and]
  exact BitVec.and_allOnes.symm

theorem fieldNN_of_selects {w p : Word} (h : w &&& 0xF0FF#16 = p) : fieldNN w = fieldNN p := by
  rw [← h, fieldNN_and]
  exact BitVec.and_allOnes.symm

theorem eq_of_selects {w p : Word} (h : w &&& 0xFFFF#16 = p) : w = p := by
  rw [← h]
  exact BitVec.and_allOnes.symm

/-- The three families with sub-operations: a row of the family fixes the field that the family's decoder tests. -/
theorem decodeAlu_of_selects {w : Word} {r : Row} (hr : r ∈ rowsAlu) (h : w &&& r.mask = r.pattern) :
    ∃ i, decodeAlu w = .ok i := by
  simp only [rowsAlu, List.mem_cons, List.not_mem_nil, or_false] at hr
  unfold decodeAlu
  rcases hr with rfl | rfl | rfl | rfl | rfl | rfl | rfl | rfl | rfl <;>
    exact ⟨_, by rw [fieldN_of_selects h]; rfl⟩

theorem decodeKey_of_selects {w : Word} {r : Row} (hr : r ∈ rowsKey) (h : w &&& r.mask = r.pattern) :
    ∃ i, decodeKey w = .ok i := by
  simp only [rowsKey, List.mem_cons, List.not_mem_nil, or_false] at hr
  unfold decodeKey
  rcases hr with rfl | rfl <;> exact ⟨_, by rw [fieldNN_of_selects h]; rfl⟩

theorem decodeMisc_of_selects {w : Word} {r : Row} (hr : r ∈ rowsMisc) (h : w &&& r.mask = r.pattern) :
    ∃ i, decodeMisc w = .ok i := by
  simp only [rowsMisc, List.mem_cons, List.not_mem_nil, or_false] at hr
  unfold decodeMisc
  rcases hr with rfl | rfl | rfl | rfl | rfl | rfl | rfl | rfl | rfl <;>
    exact ⟨_, by rw [fieldNN_of_selects h]; rfl⟩

/-- A word that a row selects decodes: its family, and the fields its arm tests, are those of the row's pattern. -/
theorem decode_of_selects {w : Word} {r : Row} (hr : r ∈ dispatchTable) (h : w &&& r.mask = r.pattern) :
    ∃ i, decode w = .ok i := by
  have hd := fieldD1_of_selects hr h
  unfold decode
  rw [hd]
  simp only [dispatchTable, List.mem_append, or_assoc] at hr
  rcases hr with hr | hr | hr | hr | hr | hr
  · simp only [rowsSystem, List.mem_cons, List.not_mem_nil, or_false] at hr
    rcases hr with rfl | rfl | rfl | rfl | rfl
    · exact ⟨.nop, by rw [eq_of_selects h]; rfl⟩
    · exact ⟨.cls, by rw [eq_of_selects h]; rfl⟩
    · exact ⟨.ret, by rw [eq_of_selects h]; rfl⟩
    · exact ⟨.jp (fieldNNN w), rfl⟩
    · exact ⟨.call (fieldNNN w), rfl⟩
  · simp only [rowsImmediate, List.mem_cons, List.not_mem_nil, or_false] at hr
    rcases hr with rfl | rfl | rfl | rfl | rfl
    · exact ⟨.seImm (fieldX w) (fieldNN w), rfl⟩
    · exact ⟨.sneImm (fieldX w) (fieldNN w), rfl⟩
    · exact ⟨.seReg (fieldX w) (fieldY w), by rw [fieldN_of_selects h]; rfl⟩
    · exact ⟨.ldImm (fieldX w) (fieldNN w), rfl⟩
    · exact ⟨.addImm (fieldX w) (fieldNN w), rfl⟩
  · have hfamily : ∀ r ∈ rowsAlu, fieldD1 r.pattern = 8#4 := by decide
    rw [hfamily r hr]
    exact decodeAlu_of_selects hr h
  · simp only [rowsMiddle, List.mem_cons, List.not_mem_nil, or_false] at hr
    rcases hr with rfl | rfl | rfl | rfl | rfl
    · exact ⟨.sneReg (fieldX w) (fieldY w), by rw [fieldN_of_selects h]; rfl⟩
    · exact ⟨.ldI (fieldNNN w), rfl⟩
    · exact ⟨.jpV0 (fieldNNN w), rfl⟩
    · exact ⟨.rnd (fieldX w) (fieldNN w), rfl⟩
    · exact ⟨.drw (fieldX w) (fieldY w) (fieldN w), rfl⟩
  · have hfamily : ∀ r ∈ rowsKey, fieldD1 r.pattern = 14#4 := by decide
    rw [hfamily r hr]
    exact decodeKey_of_selects hr h
  · have hfamily : ∀ r ∈ rowsMisc, fieldD1 r.pattern = 15#4 := by decide
    rw [hfamily r hr]
    exact decodeMisc_of_selects hr h

/-- Settles O3: a selected word decodes, the row of what it decodes to selects it too, and only one row can. -/
theorem decodeSelectsTheTableRow : Obligations.DecodeSelectsTheTableRow := by
  refine ⟨fun w r hr => ⟨fun h => ?_, ?_⟩, fun w r q => row_eq_of_selects⟩
  · obtain ⟨i, hi⟩ := decode_of_selects hr h
    obtain ⟨q, hq, hcls, hwq⟩ := selected_of_decode hi
    exact ⟨i, hi, row_eq_of_selects hr hq h hwq ▸ hcls.symm⟩
  · rintro ⟨i, hi, hcls⟩
    obtain ⟨q, hq, hqcls, hwq⟩ := selected_of_decode hi
    exact row_eq_of_cls_eq q hq r hr (hqcls.trans hcls) ▸ hwq

/-- The instruction words are the words that decode. -/
theorem wordWellFormed_iff (w : Word) : wordWellFormed w = true ↔ ∃ i, decode w = .ok i := by
  simp only [wordWellFormed, List.any_eq_true, Row.selects, beq_iff_eq]
  constructor
  · rintro ⟨r, hr, h⟩
    exact decode_of_selects hr h
  · rintro ⟨i, hi⟩
    obtain ⟨r, hr, -, h⟩ := selected_of_decode hi
    exact ⟨r, hr, h⟩

/-- A word that is no instruction word is the one that the decoder refuses. -/
theorem wordWellFormed_eq_false_iff (w : Word) : wordWellFormed w = false ↔ ∃ e, decode w = .error e := by
  rw [← Bool.not_eq_true, wordWellFormed_iff]
  cases decode w <;> simp

end Sys2Proof

/-! SUPPORT. What the execute phase answers, said once for all instructions: the halted state of the table of R103 where
an instruction faults, and otherwise the state that its rule leaves, piece by piece. -/

namespace Sys2Proof.Machine

/-! ### When a checked access and a checked register fault -/

theorem memOobOf_eq_none_iff (s : State) (n : Nat) : memOobOf s n = none ↔ n = 0 ∨ s.i.toNat + n ≤ 4096 := by
  unfold memOobOf
  split
  · simp; omega
  · simp; omega

theorem memOobOf_of_outside {s : State} {n : Nat} (hn : 0 < n) (h : 4096 ≤ s.i.toNat + n - 1) :
    memOobOf s n = some (.memOob, BitVec.ofNat 16 (max s.i.toNat 4096)) :=
  if_pos ⟨hn, h⟩

/-- The checked access at I goes ahead where the table of R103 has no fault for it. -/
theorem withBytesAtI_of_none {s : State} {n : Nat} (h : memOobOf s n = none) (w : Word) (go : Result) :
    withBytesAtI n w s go = go := by
  rw [withBytesAtI_eq, if_pos ((memOobOf_eq_none_iff s n).1 h)]

theorem withBytesAtI_of_some {s : State} {n : Nat} {c : Fault} {info : Word} (h : memOobOf s n = some (c, info))
    (w : Word) (go : Result) : withBytesAtI n w s go = .next (s.halted c info w) := by
  have hout : ¬ (n = 0 ∨ s.i.toNat + n ≤ 4096) := by
    rw [← memOobOf_eq_none_iff, h]; simp
  unfold memOobOf at h
  split at h
  · cases h
    rw [withBytesAtI_eq, if_neg hout]
  · cases h

theorem byteOperand_eq_ofNat (b : Byte) : byteOperand b = BitVec.ofNat 16 b.toNat := by
  apply BitVec.eq_of_toNat_eq
  simp [byteOperand]

theorem above15Of_eq_none_iff (c : Fault) (b : Byte) : above15Of c b = none ↔ b.toNat ≤ 15 := by
  simp [above15Of]

theorem above15Of_of_lt {b : Byte} (c : Fault) (h : 15 < b.toNat) : above15Of c b = some (c, byteOperand b) := by
  rw [above15Of, if_pos h, byteOperand_eq_ofNat]

/-- A register above 15 faults with its value as the info. -/
theorem above15Of_eq_some {c d : Fault} {b : Byte} {info : Word} (h : above15Of c b = some (d, info)) :
    ¬ b.toNat ≤ 15 ∧ d = c ∧ info = byteOperand b := by
  by_cases hb : 15 < b.toNat
  · rw [above15Of_of_lt c hb] at h
    cases h
    exact ⟨by omega, rfl, rfl⟩
  · rw [(above15Of_eq_none_iff c b).2 (by omega)] at h
    cases h

/-! ### The state that an instruction leaves -/

/-- The state that an instruction leaves when the table of R103 has no fault for it: `exec_of_noFault` ties it to `exec`. -/
def completed (i : Instr) (s : State) : State :=
  match i with
  | .nop => s.fetched
  | .cls => s.fetched.setDisp 0#2048
  | .ret => s.fetched.popPc
  | .jp nnn => s.fetched.setPc (addrOperand nnn)
  | .call nnn => (s.fetched.push s.fetched.pc).setPc (addrOperand nnn)
  | .seImm x nn => s.fetched.skipIf (s.getV x == nn)
  | .sneImm x nn => s.fetched.skipIf (s.getV x != nn)
  | .seReg x y => s.fetched.skipIf (s.getV x == s.getV y)
  | .ldImm x nn => s.fetched.setV x nn
  | .addImm x nn => s.fetched.setV x (s.getV x + nn)
  | .ldReg x y => s.fetched.setV x (s.getV y)
  | .orReg x y => s.fetched.setV x (s.getV x ||| s.getV y)
  | .andReg x y => s.fetched.setV x (s.getV x &&& s.getV y)
  | .xorReg x y => s.fetched.setV x (s.getV x ^^^ s.getV y)
  | .addReg x y => s.fetched.setVAndFlag x (s.getV x + s.getV y) (carryOut (s.getV x) (s.getV y))
  | .subReg x y => s.fetched.setVAndFlag x (s.getV x - s.getV y) (notBorrow (s.getV x) (s.getV y))
  | .shr x _ => s.fetched.setVAndFlag x (s.getV x >>> 1) (shrOut (s.getV x))
  | .subn x y => s.fetched.setVAndFlag x (s.getV y - s.getV x) (notBorrow (s.getV y) (s.getV x))
  | .shl x _ => s.fetched.setVAndFlag x (s.getV x <<< 1) (shlOut (s.getV x))
  | .sneReg x y => s.fetched.skipIf (s.getV x != s.getV y)
  | .ldI nnn => s.fetched.setI (addrOperand nnn)
  | .jpV0 nnn => s.fetched.setPc (byteOperand (s.getV 0x0#4) + addrOperand nnn)
  | .rnd x nn => s.fetched.drawn.setV x (s.draw &&& nn)
  | .drw x y n => (s.fetched.setDisp (s.drawnCanvas x y n).disp).setVF (s.drawnCanvas x y n).collision
  | .skp x => s.fetched.skipIf (s.keyDown (s.getV x).toNat)
  | .sknp x => s.fetched.skipIf (!s.keyDown (s.getV x).toNat)
  | .ldVxDt x => s.fetched.setV x s.dt
  | .ldVxK x => s.lowestKey.elim s (fun k => s.fetched.setV x (BitVec.ofNat 8 k))
  | .ldDtVx x => s.fetched.setDt (s.getV x)
  | .ldStVx x => s.fetched.setSt (s.getV x)
  | .addI x => s.fetched.setI (s.i + byteOperand (s.getV x))
  | .ldF x => s.fetched.setI (BitVec.ofNat 16 (5 * (s.getV x).toNat))
  | .ldB x => s.fetched.storeBytes s.i.toNat (bcdDigits (s.getV x))
  | .storeRegs x => s.fetched.storeBytes s.i.toNat (s.firstV (x.toNat + 1))
  | .loadRegs x => s.fetched.loadV s.i.toNat (x.toNat + 1)

theorem exec_ldVxK (x : Nibble) (s : State) : exec (.ldVxK x) s = .next (completed (.ldVxK x) s) := by
  unfold completed
  cases h : s.lowestKey with
  | none => exact exec_ldVxK_of_none x h
  | some k => exact exec_ldVxK_of_some x h

/-- An instruction without a fault by the table completes. -/
theorem exec_of_noFault {i : Instr} {s : State} (h : faultOf s i = none) : exec i s = .next (completed i s) := by
  cases i with
  | ret =>
    have hsp : ¬ s.sp.val = 0 := fun e => nomatch (if_pos e).symm.trans h
    exact if_neg hsp
  | call nnn =>
    have hsp : ¬ s.sp.val = 16 := fun e => nomatch (if_pos e).symm.trans h
    exact if_neg hsp
  | drw | ldB | storeRegs | loadRegs => exact withBytesAtI_of_none h _ _
  | skp | sknp | ldF => exact if_pos ((above15Of_eq_none_iff _ _).1 h)
  | ldVxK x => exact exec_ldVxK x s
  | _ => rfl

/-- An instruction with a fault by the table raises it: only the latch changes (R104). -/
theorem exec_of_fault {i : Instr} {s : State} {c : Fault} {info : Word} (h : faultOf s i = some (c, info)) :
    exec i s = .next (s.halted c info (encode i)) := by
  cases i with
  | ret =>
    by_cases hsp : s.sp.val = 0
    · cases (if_pos hsp).symm.trans h
      exact if_pos hsp
    · exact nomatch (if_neg hsp).symm.trans h
  | call nnn =>
    by_cases hsp : s.sp.val = 16
    · cases (if_pos hsp).symm.trans h
      exact if_pos hsp
    · exact nomatch (if_neg hsp).symm.trans h
  | drw | ldB | storeRegs | loadRegs => exact withBytesAtI_of_some h _ _
  | skp | sknp | ldF =>
    obtain ⟨hb, rfl, rfl⟩ := above15Of_eq_some h
    exact if_neg hb
  | _ => cases h

/-- The execute phase always answers a next state. -/
theorem exec_cases (i : Instr) (s : State) :
    (∃ c info, faultOf s i = some (c, info) ∧ exec i s = .next (s.halted c info (encode i))) ∨
    (faultOf s i = none ∧ exec i s = .next (completed i s)) := by
  cases h : faultOf s i with
  | none => exact .inr ⟨rfl, exec_of_noFault h⟩
  | some f => exact .inl ⟨f.1, f.2, rfl, exec_of_fault h⟩

/-! ### The latch -/

@[simp] theorem completed_latch (i : Instr) (s : State) : (completed i s).latch = s.latch := by
  cases i with
  | ldVxK x => unfold completed; cases s.lowestKey <;> rfl
  | _ => simp [completed]

/-- Settles O11: one lemma per half of the table. -/
theorem instructionsFaultExactlyByTheTable : Obligations.InstructionsFaultExactlyByTheTable := by
  intro i s
  exact ⟨fun c info => exec_of_fault, fun h => ⟨completed i s, exec_of_noFault h, completed_latch i s⟩⟩

end Sys2Proof.Machine

/-! SUPPORT. What an instruction leaves unchanged (00_scope.md R12): frames compose, each shared update has its own, and an
instruction's is that of the updates it makes. -/

namespace Sys2Proof.Machine

/-! ### Frames compose -/

theorem Part.same_trans {s t u : State} {p : Part} (h : p.same s t) (h' : p.same t u) : p.same s u := by
  cases p with
  | mem => exact fun a => (h' a).trans (h a)
  | random => exact ⟨h'.1.trans h.1, h'.2.trans h.2⟩
  | _ => exact Eq.trans h' h

theorem unchangedBut.trans {l : List Part} {s t u : State} (h : unchangedBut l s t) (h' : unchangedBut l t u) :
    unchangedBut l s u := fun p hp => Part.same_trans (h p hp) (h' p hp)

/-- A frame is weaker the more pieces it names. -/
theorem unchangedBut.mono {l l' : List Part} {s t : State} (h : unchangedBut l s t) (hl : l ⊆ l') :
    unchangedBut l' s t := fun p hp => h p fun hp' => hp (hl hp')

/-- A frame holds when each piece is named or the same. -/
theorem unchangedBut_of {l : List Part} {s t : State} (h : ∀ p : Part, p ∈ l ∨ p.same s t) : unchangedBut l s t :=
  fun p hp => (h p).resolve_left hp

/-- What an update leaves alone, the fetch before it leaves alone too. -/
theorem unchangedBut.after_fetch {l : List Part} {s t : State} (h : unchangedBut l s.fetched t) : unchangedBut l s t :=
  (unchangedBut_fetched l s).trans h

/-! ### The frame of each shared update -/

theorem unchangedBut_setV (s : State) (x : Nibble) (b : Byte) : unchangedBut [.v] s (s.setV x b) :=
  unchangedBut_of fun p => by cases p <;> simp [Part.same]

theorem unchangedBut_setVAndFlag (s : State) (x : Nibble) (r : Byte) (f : Bool) :
    unchangedBut [.v] s (s.setVAndFlag x r f) :=
  (unchangedBut_setV s x r).trans (unchangedBut_setV (s.setV x r) 0xF#4 (flagByte f))

theorem unchangedBut_setI (s : State) (w : Word) : unchangedBut [.i] s (s.setI w) :=
  unchangedBut_of fun p => by cases p <;> simp [Part.same]

theorem unchangedBut_setDisp (s : State) (d : BitVec 2048) : unchangedBut [.disp] s (s.setDisp d) :=
  unchangedBut_of fun p => by cases p <;> simp [Part.same]

theorem unchangedBut_push (s : State) (w : Word) : unchangedBut [.stack, .sp] s (s.push w) :=
  unchangedBut_of fun p => by cases p <;> simp [Part.same]

theorem unchangedBut_popPc (s : State) : unchangedBut [.sp] s s.popPc :=
  unchangedBut_of fun p => by cases p <;> simp [Part.same]

theorem unchangedBut_drawn (s : State) : unchangedBut [.random] s s.drawn :=
  unchangedBut_of fun p => by cases p <;> simp [Part.same]

theorem unchangedBut_writeMem (s : State) (a : Nat) (b : Byte) : unchangedBut [.mem] s (s.writeMem a b) :=
  unchangedBut_of fun p => by cases p <;> simp [Part.same]

theorem unchangedBut_storeBytes (s : State) (a : Nat) (bs : List Byte) : unchangedBut [.mem] s (s.storeBytes a bs) :=
  unchangedBut_of fun p => by cases p <;> simp [Part.same]

theorem unchangedBut_loadV (s : State) (a n : Nat) : unchangedBut [.v] s (s.loadV a n) :=
  unchangedBut_of fun p => by cases p <;> simp [Part.same]

/-- A draw replaces the display and then writes its flag. -/
theorem unchangedBut_setDisp_setVF (s : State) (d : BitVec 2048) (f : Bool) :
    unchangedBut [.v, .disp] s ((s.setDisp d).setVF f) :=
  ((unchangedBut_setDisp s d).mono (by simp)).trans
    ((unchangedBut_setV (s.setDisp d) 0xF#4 (flagByte f)).mono (by simp))

/-- A random byte is drawn and then put into a register. -/
theorem unchangedBut_drawn_setV (s : State) (x : Nibble) (b : Byte) :
    unchangedBut [.v, .random] s (s.drawn.setV x b) :=
  ((unchangedBut_drawn s).mono (by simp)).trans ((unchangedBut_setV s.drawn x b).mono (by simp))

/-! ### The frame of every instruction -/

/-- An instruction that completes changes only PC and the pieces its rule names (R12). -/
theorem unchangedBut_completed (i : Instr) (s : State) : unchangedBut (partsWritten i) s (completed i s) := by
  cases i with
  | nop => exact unchangedBut_fetched _ s
  | seImm | sneImm | seReg | sneReg | skp | sknp => exact unchangedBut_skipIf_fetched _ s _
  | jp nnn | jpV0 nnn => exact (unchangedBut_setPc _ s.fetched _).after_fetch
  | cls => exact unchangedBut_fetched_setDisp s 0#2048
  | ret => exact (unchangedBut_popPc s.fetched).after_fetch
  | call nnn => exact ((unchangedBut_push s.fetched _).trans (unchangedBut_setPc _ _ _)).after_fetch
  | ldImm | addImm | ldReg | orReg | andReg | xorReg | ldVxDt => exact unchangedBut_fetched_setV s _ _
  | addReg | subReg | shr | subn | shl => exact (unchangedBut_setVAndFlag s.fetched _ _ _).after_fetch
  | ldI | addI | ldF => exact (unchangedBut_setI s.fetched _).after_fetch
  | rnd => exact (unchangedBut_drawn_setV s.fetched _ _).after_fetch
  | drw => exact (unchangedBut_setDisp_setVF s.fetched _ _).after_fetch
  | ldVxK x =>
    unfold completed
    cases s.lowestKey with
    | none => exact unchangedBut_of fun p => by cases p <;> simp [Part.same]
    | some k => exact unchangedBut_fetched_setV s x _
  | ldDtVx => exact unchangedBut_fetched_setDt s _
  | ldStVx => exact unchangedBut_fetched_setSt s _
  | ldB | storeRegs => exact (unchangedBut_storeBytes s.fetched _ _).after_fetch
  | loadRegs => exact (unchangedBut_loadV s.fetched _ _).after_fetch

/-- Settles O27: each instruction's frame is that of the updates it makes. -/
theorem instructionsWriteOnlyTheirParts : Obligations.InstructionsWriteOnlyTheirParts :=
  fun i s h => ⟨completed i s, exec_of_noFault h, unchangedBut_completed i s⟩

/-! ### The registers that an instruction leaves -/

/-- An instruction that does not write the register file leaves every register. -/
theorem getV_eq_of_v_eq {s t : State} (h : t.v = s.v) (r : Nibble) : t.getV r = s.getV r := by
  simp only [State.getV, h]

/-- A register changes only as the destination, or as VF of a flag writer (R17). -/
theorem getV_completed {i : Instr} {s : State} {r : Nibble} (hr : ¬ registersWritten i r) :
    (completed i s).getV r = s.getV r := by
  cases i with
  | ldImm | addImm | ldReg | orReg | andReg | xorReg | rnd | ldVxDt => exact State.getV_setV_of_ne _ _ _ _ hr
  | addReg | subReg | shr | subn | shl =>
    obtain ⟨hx, hF⟩ := not_or.1 hr
    exact (State.getV_setVAndFlag _ _ _ _ _).trans ((if_neg hF).trans (if_neg hx))
  | drw => exact State.getV_setVF_of_ne _ _ _ hr
  | ldVxK x =>
    unfold completed
    cases s.lowestKey with
    | none => rfl
    | some k => exact State.getV_setV_of_ne _ _ _ _ hr
  | loadRegs x =>
    have hx : ¬ r.toNat < x.toNat + 1 := fun h => hr (Nat.lt_succ_iff.1 h)
    exact (State.getV_loadV _ _ _ _).trans (if_neg hx)
  | _ => exact getV_eq_of_v_eq (unchangedBut_completed _ s .v (by simp [partsWritten])) r

/-- Settles O28: the registers written are those of the updates made. -/
theorem instructionsWriteOnlyTheirRegisters : Obligations.InstructionsWriteOnlyTheirRegisters :=
  fun i s h => ⟨completed i s, exec_of_noFault h, fun _ => getV_completed⟩

end Sys2Proof.Machine

/-! SUPPORT. The step (30_encoding.md R54, R55; 10_state.md R32 to R40; 60_exceptions.md R103 to R112): what a Step answers,
what the other transactions leave, and what a transaction on the agenda adds, which is only that it is taken off it. -/

namespace Sys2Proof.Machine

/-! ### What a Step of a ready core answers -/

theorem coreStep_of_faulted {s : State} (h : s.latch.faulted = true) : coreStep s = .next s := if_pos h

theorem coreStep_of_fetch_outside {s : State} (hs : s.ready) (h : 4096 ≤ s.pc.toNat + 1) :
    coreStep s = .next (s.halted .fetchOob (BitVec.ofNat 16 (max s.pc.toNat 4096)) 0#16) := by
  unfold coreStep
  rw [hs, if_neg Bool.false_ne_true, if_pos h, raise_eq, oobInfo_eq]

theorem coreStep_of_decode {s : State} {i : Instr} (hs : s.ready) (hpc : s.pc.toNat + 1 < 4096)
    (hd : decode s.fetchWord = .ok i) : coreStep s = exec i s := by
  unfold coreStep
  rw [hs, if_neg Bool.false_ne_true, if_neg (Nat.not_le.2 hpc), hd]

theorem coreStep_of_unrecognized {s : State} (hs : s.ready) (hpc : s.pc.toNat + 1 < 4096)
    (hw : wordWellFormed s.fetchWord = false) :
    coreStep s = .next (s.halted .unrecognized 0#16 s.fetchWord) := by
  obtain ⟨e, he⟩ := (wordWellFormed_eq_false_iff _).1 hw
  unfold coreStep
  rw [hs, if_neg Bool.false_ne_true, if_neg (Nat.not_le.2 hpc), he, raise_eq]

/-- A Step that nobody scheduled, and one on the agenda: the same Step, of the state without it. -/
theorem step_scheduled {s : State} {rest : List Transaction} (h : s.agenda = .step :: rest) :
    step s = coreStep { s with agenda := rest } := step_of_agenda_cons s .step rest h

/-- Settles O6: scheduled or not, the Step reads the same word at the same PC. -/
theorem stepRunsTheDecodedInstruction : Obligations.StepRunsTheDecodedInstruction := by
  intro s i hs hpc hd
  refine ⟨fun h => ?_, fun rest h => ?_⟩
  · rw [step_of_agenda_nil s h, coreStep_of_decode hs hpc hd]
  · rw [step_scheduled h]
    exact coreStep_of_decode (s := { s with agenda := rest }) hs hpc hd

/-- Settles O7: the fetch is checked before anything is read. -/
theorem fetchOutsideMemoryFaults : Obligations.FetchOutsideMemoryFaults := by
  intro s hs hpc
  refine ⟨fun h => ?_, fun rest h => ?_⟩
  · rw [step_of_agenda_nil s h, coreStep_of_fetch_outside hs hpc]
  · rw [step_scheduled h]
    exact coreStep_of_fetch_outside (s := { s with agenda := rest }) hs hpc

/-- Settles O8: the words of no row are those that the decoder refuses. -/
theorem unrecognizedWordFaults : Obligations.UnrecognizedWordFaults := by
  intro s hs hpc hw
  refine ⟨fun h => ?_, fun rest h => ?_⟩
  · rw [step_of_agenda_nil s h]
    exact coreStep_of_unrecognized hs hpc hw
  · rw [step_scheduled h]
    exact coreStep_of_unrecognized (s := { s with agenda := rest }) hs hpc hw

/-- Settles O59: JP leaves the core ready with PC at its target, so the next Step is the one of O6 or O7 there. -/
theorem jumpTargetIsFetchedNext : Obligations.JumpTargetIsFetchedNext := by
  intro nnn s hs
  have hpc : (addrOperand nnn).toNat = nnn.toNat := BitVec.toNat_setWidth_of_le (by decide)
  refine ⟨_, rfl, fun i hin hd => ?_, ?_⟩
  · refine stepRunsTheDecodedInstruction (s.fetched.setPc (addrOperand nnn)) i hs ?_ ?_
    · simpa [hpc] using hin
    · simpa [hpc] using hd
  · rintro rfl
    have hout : 4096 ≤ (addrOperand 0xFFF#12).toNat + 1 := by decide
    exact fetchOutsideMemoryFaults (s.fetched.setPc (addrOperand 0xFFF#12)) hs hout

/-! ### What a Step can do to any core -/

/-- The latch of a core that an instruction has just halted is a true record (R103). -/
theorem faultRecord_halted {s : State} {i : Instr} {c : Fault} {info : Word} (h : faultOf s i = some (c, info)) :
    faultRecord (s.halted c info (encode i)) :=
  .inr (.inr ⟨i, c, decodeOfEncodeIsTheInstruction i, h, rfl⟩)

/-- The latch of a core that its fetch has just halted is a true record (R55, R103). -/
theorem faultRecord_fetchOob {s : State} (h : 4096 ≤ s.pc.toNat + 1) :
    faultRecord (s.halted .fetchOob (BitVec.ofNat 16 (max s.pc.toNat 4096)) 0#16) := by
  have hpc := s.pc.isLt
  exact .inl ⟨rfl, rfl, h, Nat.mod_eq_of_lt (by omega)⟩

/-- Everything a Step can leave: the state of a halted core, a halt with a true record, or a completed instruction. -/
theorem coreStep_inv {s t : State} (h : coreStep s = .next t) :
    (s.latch.faulted = true ∧ t = s) ∨
    (s.ready ∧ ∃ c info w, t = s.halted c info w ∧ faultRecord t) ∨
    (s.ready ∧ s.pc.toNat + 1 < 4096 ∧ ∃ i, decode s.fetchWord = .ok i ∧ faultOf s i = none ∧ t = completed i s) := by
  obtain ⟨hf, hs⟩ | ⟨hf, hpc, hs⟩ | ⟨hf, hpc, he, hs⟩ | ⟨hf, hpc, i, hd, hs⟩ := coreStep_cases s <;> rw [hs] at h
  · cases h
    exact .inl ⟨hf, rfl⟩
  · cases h
    exact .inr (.inl ⟨hf, _, _, _, rfl, faultRecord_fetchOob hpc⟩)
  · cases h
    exact .inr (.inl ⟨hf, _, _, _, rfl, .inr (.inl ⟨rfl, rfl, (wordWellFormed_eq_false_iff _).2 he⟩)⟩)
  · obtain ⟨c, info, hc, hx⟩ | ⟨hc, hx⟩ := exec_cases i s <;> rw [hx] at h <;> cases h
    · exact .inr (.inl ⟨hf, c, info, encode i, rfl, faultRecord_halted hc⟩)
    · exact .inr (.inr ⟨hf, hpc, i, hd, hc, rfl⟩)

theorem coreStep_completes (s : State) : ∃ t, coreStep s = .next t := by
  obtain ⟨-, hs⟩ | ⟨-, -, hs⟩ | ⟨-, -, -, hs⟩ | ⟨-, -, i, -, hs⟩ := coreStep_cases s
  · exact ⟨_, hs⟩
  · exact ⟨_, hs⟩
  · exact ⟨_, hs⟩
  · obtain ⟨c, info, -, hx⟩ | ⟨-, hx⟩ := exec_cases i s <;> exact ⟨_, hs.trans hx⟩

/-! ### What a TimerTick leaves -/

theorem timerTick_of_faulted {s : State} (h : s.latch.faulted = true) : timerTick s = s := if_pos h

theorem timerTick_of_ready {s : State} (h : s.ready) :
    timerTick s = { s with dt := countDown s.dt, st := countDown s.st } := by
  unfold timerTick
  rw [h, if_neg Bool.false_ne_true]

/-- A tick leaves a halted core alone, and writes the two timers of a ready one (R106, R112). -/
theorem timerTick_cases (s : State) :
    timerTick s = s ∨ (s.ready ∧ timerTick s = { s with dt := countDown s.dt, st := countDown s.st }) := by
  cases h : s.latch.faulted with
  | true => exact .inl (timerTick_of_faulted h)
  | false => exact .inr ⟨h, timerTick_of_ready h⟩

theorem timerTick_latch (s : State) : (timerTick s).latch = s.latch := by
  obtain e | ⟨-, e⟩ := timerTick_cases s <;> rw [e]

/-! ### What a step is: one transaction performed on the state without it -/

/-- The transaction that a step performs, and the state it performs it on. -/
theorem step_inv {s t : State} (h : step s = .next t) :
    (s.agenda = [] ∧ coreStep s = .next t) ∨
    (∃ tr rest, s.agenda = tr :: rest ∧ perform tr { s with agenda := rest } = .next t) := by
  cases ha : s.agenda with
  | nil => exact .inl ⟨rfl, step_of_agenda_nil s ha ▸ h⟩
  | cons tr rest => exact .inr ⟨tr, rest, rfl, step_of_agenda_cons s tr rest ha ▸ h⟩

theorem perform_completes (tr : Transaction) (s : State) : ∃ t, perform tr s = .next t := by
  cases tr with
  | step => exact coreStep_completes s
  | _ => exact ⟨_, rfl⟩

/-- Settles O10: the five transactions answer a next state, the Step because every meaning does. -/
theorem everyStepCompletes : Obligations.EveryStepCompletes := by
  intro s
  cases ha : s.agenda with
  | nil => exact step_of_agenda_nil s ha ▸ coreStep_completes s
  | cons tr rest => exact step_of_agenda_cons s tr rest ha ▸ perform_completes tr _

/-- What every transaction turns into `Q`, every step does, since the agenda is not the machine's state. -/
theorem step_of_perform {P Q : State → Prop} (hagenda : ∀ s rest, P s → P { s with agenda := rest })
    (hperform : ∀ tr s t, P s → perform tr s = .next t → Q t) {s t : State} (hs : P s) (h : step s = .next t) :
    Q t := by
  obtain ⟨-, hc⟩ | ⟨tr, rest, -, hp⟩ := step_inv h
  · exact hperform .step s t hs hc
  · exact hperform tr _ t (hagenda s rest hs) hp

end Sys2Proof.Machine

/-! SUPPORT. The invariants that every step keeps: canonical memory, the bound and the parity of PC and of the return
addresses, and the meaning of the fault latch. -/

namespace Sys2Proof.Machine

/-! ### Memory -/

theorem memoryCanonical_storeBytes {s : State} (h : memoryCanonical s) (a : Nat) (bs : List Byte) :
    memoryCanonical (s.storeBytes a bs) := Memory.wf_writeList s.font bs s.mem a h

/-- Only FX33 and FX55 store, and a store keeps the canonical form. -/
theorem memoryCanonical_completed {i : Instr} {s : State} (h : memoryCanonical s) : memoryCanonical (completed i s) := by
  cases i with
  | ldB | storeRegs => exact memoryCanonical_storeBytes (s := s.fetched) h _ _
  | seImm | sneImm | seReg | sneReg | skp | sknp => simpa [memoryCanonical, completed] using h
  | ldVxK x => unfold completed; cases s.lowestKey <;> exact h
  | _ => exact h

theorem memoryCanonical_coreStep {s t : State} (h : memoryCanonical s) (hs : coreStep s = .next t) :
    memoryCanonical t := by
  obtain ⟨-, rfl⟩ | ⟨-, c, info, w, rfl, -⟩ | ⟨-, -, i, -, -, rfl⟩ := coreStep_inv hs
  · exact h
  · exact h
  · exact memoryCanonical_completed h

theorem memoryCanonical_perform (tr : Transaction) (s t : State) (h : memoryCanonical s)
    (hs : perform tr s = .next t) : memoryCanonical t := by
  cases tr with
  | step => exact memoryCanonical_coreStep h hs
  | timerTick => cases hs; obtain e | ⟨-, e⟩ := timerTick_cases s <;> rw [e] <;> exact h
  | reset => cases hs; exact Memory.wf_nil s.font
  | hostWriteMem a b => cases hs; exact Memory.wf_write s.font s.mem a.toNat b h
  | hostSetKeys k16 => cases hs; exact h

/-- Settles O19: the stores of a Step and the host's write keep the form, and Reset lists no byte. -/
theorem stepKeepsMemoryCanonical : Obligations.StepKeepsMemoryCanonical :=
  fun _ _ h => step_of_perform (fun _ _ hs => hs) memoryCanonical_perform h

/-- Settles O20: the reset memory lists nothing. -/
theorem resetMemoryIsCanonical : Obligations.ResetMemoryIsCanonical := Memory.wf_nil State.reset.font

/-! ### Where PC and the return addresses go -/

theorem addrOperand_toNat (nnn : Addr) : (addrOperand nnn).toNat = nnn.toNat := BitVec.toNat_setWidth_of_le (by decide)

theorem byteOperand_toNat (b : Byte) : (byteOperand b).toNat = b.toNat := BitVec.toNat_setWidth_of_le (by decide)

/-- BNNN's sum always fits 16 bits (R71). -/
theorem jpV0_target_toNat (b : Byte) (nnn : Addr) : (byteOperand b + addrOperand nnn).toNat = b.toNat + nnn.toNat := by
  have hb := b.isLt
  have hn := nnn.isLt
  rw [BitVec.toNat_add, byteOperand_toNat, addrOperand_toNat]
  omega

/-- The fetch does not wrap where it reads inside memory. -/
theorem fetched_pc_toNat {s : State} (hpc : s.pc.toNat + 1 < 4096) : (s.pc + 2#16).toNat = s.pc.toNat + 2 := by
  rw [BitVec.toNat_add]
  exact Nat.mod_eq_of_lt (show s.pc.toNat + 2 < 65536 by omega)

/-- PC after a fetch inside memory and a conditional skip. -/
theorem skipIf_pc_toNat {s : State} (hpc : s.pc.toNat + 1 < 4096) (c : Bool) :
    (s.fetched.skipIf c).pc.toNat = s.pc.toNat + 2 ∨ (s.fetched.skipIf c).pc.toNat = s.pc.toNat + 4 := by
  rw [State.skipIf_fetched_pc]
  cases c
  · left
    simp only [Bool.false_eq_true, if_false]
    omega
  · right
    simp only [if_true]
    omega

/-- Where PC can be after an instruction fetched inside memory (R19): it stays, goes on by 2 or by 4, returns to an entry of the
stack, or goes to the target of a jump, a call or a BNNN. -/
theorem completed_pc (i : Instr) {s : State} (hpc : s.pc.toNat + 1 < 4096) :
    (completed i s).pc.toNat = s.pc.toNat ∨
    ((completed i s).pc.toNat = s.pc.toNat + 2 ∨ (completed i s).pc.toNat = s.pc.toNat + 4) ∨
    (∃ k : Fin 16, (completed i s).pc = s.stack[k]) ∨
    (∃ nnn, (i = .jp nnn ∨ i = .call nnn) ∧ (completed i s).pc.toNat = nnn.toNat) ∨
    (∃ nnn, i = .jpV0 nnn ∧ (completed i s).pc.toNat = (s.getV 0#4).toNat + nnn.toNat) := by
  cases i with
  | ret => exact .inr (.inr (.inl ⟨⟨s.sp.val - 1, by omega⟩, rfl⟩))
  | jp nnn => exact .inr (.inr (.inr (.inl ⟨nnn, .inl rfl, addrOperand_toNat nnn⟩)))
  | call nnn => exact .inr (.inr (.inr (.inl ⟨nnn, .inr rfl, addrOperand_toNat nnn⟩)))
  | jpV0 nnn => exact .inr (.inr (.inr (.inr ⟨nnn, rfl, jpV0_target_toNat _ nnn⟩)))
  | seImm | sneImm | seReg | sneReg | skp | sknp => exact .inr (.inl (skipIf_pc_toNat hpc _))
  | ldVxK x =>
    unfold completed
    cases s.lowestKey with
    | none => exact .inl rfl
    | some k => exact .inr (.inl (.inl (fetched_pc_toNat hpc)))
  | _ => exact .inr (.inl (.inl (fetched_pc_toNat hpc)))

/-- A stack entry changes only to the address that a call pushes (R66). -/
theorem completed_stack (i : Instr) {s : State} (hpc : s.pc.toNat + 1 < 4096) (k : Fin 16) :
    (completed i s).stack[k] = s.stack[k] ∨ ((completed i s).stack[k]).toNat = s.pc.toNat + 2 := by
  by_cases hi : .stack ∈ partsWritten i
  · cases i with
    | call nnn =>
      show (s.fetched.push (s.pc + 2#16)).stack[k] = _ ∨ ((s.fetched.push (s.pc + 2#16)).stack[k]).toNat = _
      rw [State.push_stack]
      split
      · exact .inr (fetched_pc_toNat hpc)
      · exact .inl rfl
    | _ => exact absurd hi (by simp [partsWritten])
  · have hstack : (completed i s).stack = s.stack := unchangedBut_completed i s .stack hi
    exact .inl (by rw [hstack])

theorem pcBounded_completed (i : Instr) {s : State} (hpc : s.pc.toNat + 1 < 4096) (h : pcBounded s) :
    pcBounded (completed i s) := by
  obtain ⟨-, hstack⟩ := h
  constructor
  · obtain e | (e | e) | ⟨k, e⟩ | ⟨nnn, -, e⟩ | ⟨nnn, -, e⟩ := completed_pc i hpc <;> rw [e]
    · omega
    · omega
    · omega
    · have := hstack k; omega
    · omega
    · omega
  · intro k
    obtain e | e := completed_stack i hpc k <;> rw [e]
    · exact hstack k
    · omega

theorem pcEven_completed {i : Instr} {s : State} (hpc : s.pc.toNat + 1 < 4096) (hi : evenTarget s i) (h : pcEven s) :
    pcEven (completed i s) := by
  obtain ⟨heven, hstack⟩ := h
  constructor
  · obtain e | (e | e) | ⟨k, e⟩ | ⟨nnn, hjump, e⟩ | ⟨nnn, hjump, e⟩ := completed_pc i hpc <;> rw [e]
    · exact heven
    · omega
    · omega
    · exact hstack k
    · obtain rfl | rfl := hjump <;> exact hi
    · cases hjump
      exact hi
  · intro k
    obtain e | e := completed_stack i hpc k <;> rw [e]
    · exact hstack k
    · omega

/-- At reset every return address is 0. -/
theorem reset_stack (k : Fin 16) : State.reset.stack[k] = 0#16 := Vector.getElem_replicate k.isLt

theorem pcBounded_reset : pcBounded State.reset := ⟨by decide, fun k => by rw [reset_stack]; decide⟩

theorem pcEven_reset : pcEven State.reset := ⟨by decide, fun k => by rw [reset_stack]; rfl⟩

theorem pcBounded_perform (tr : Transaction) (s t : State) (h : pcBounded s) (hs : perform tr s = .next t) :
    pcBounded t := by
  cases tr with
  | step =>
    obtain ⟨-, rfl⟩ | ⟨-, c, info, w, rfl, -⟩ | ⟨-, hpc, i, -, -, rfl⟩ := coreStep_inv hs
    · exact h
    · exact h
    · exact pcBounded_completed i hpc h
  | timerTick => cases hs; obtain e | ⟨-, e⟩ := timerTick_cases s <;> rw [e] <;> exact h
  | reset => cases hs; exact pcBounded_reset
  | hostWriteMem | hostSetKeys => cases hs; exact h

/-- Settles O21: an instruction that completes was fetched below 0xFFF, and BNNN goes the farthest, to 0xFF + 0xFFF. -/
theorem stepKeepsPcBounded : Obligations.StepKeepsPcBounded :=
  fun _ _ h => step_of_perform (fun _ _ hs => hs) pcBounded_perform h

/-- Settles O22: PC is 0x200 and every return address 0. -/
theorem resetPcIsBounded : Obligations.ResetPcIsBounded := pcBounded_reset

/-- PC and the return addresses are even, and so is the target of the instruction at PC. -/
def pcEvenWithTarget (s : State) : Prop := pcEven s ∧ ∀ i, decode s.fetchWord = .ok i → evenTarget s i

/-- The agenda plays no part in the target of the instruction at PC. -/
theorem pcEvenWithTarget_agenda (s : State) (rest : List Transaction) (h : pcEvenWithTarget s) :
    pcEvenWithTarget { s with agenda := rest } := by
  refine ⟨h.1, fun i hd => ?_⟩
  have htarget : evenTarget s i := h.2 i hd
  cases i <;> exact htarget

theorem pcEven_perform (tr : Transaction) (s t : State) (h : pcEvenWithTarget s) (hs : perform tr s = .next t) :
    pcEven t := by
  obtain ⟨heven, htarget⟩ := h
  cases tr with
  | step =>
    obtain ⟨-, rfl⟩ | ⟨-, c, info, w, rfl, -⟩ | ⟨-, hpc, i, hd, -, rfl⟩ := coreStep_inv hs
    · exact heven
    · exact heven
    · exact pcEven_completed hpc (htarget i hd) heven
  | timerTick => cases hs; obtain e | ⟨-, e⟩ := timerTick_cases s <;> rw [e] <;> exact heven
  | reset => cases hs; exact pcEven_reset
  | hostWriteMem | hostSetKeys => cases hs; exact heven

/-- Settles O26: PC moves by 2 or 4, to a return address, or to the step's target. -/
theorem evenTargetsKeepPcEven : Obligations.EvenTargetsKeepPcEven :=
  fun _ _ h htarget => step_of_perform pcEvenWithTarget_agenda pcEven_perform ⟨h, htarget⟩

/-- Settles O58: PC is 0x200 and every return address 0. -/
theorem resetPcIsEven : Obligations.ResetPcIsEven := pcEven_reset

/-! ### The fault latch -/

/-- A clear latch has its meaning in any state: the core is ready. -/
theorem latchMeaning_of_clear {s : State} (h : s.latch = FaultLatch.clear) : latchMeaning s := by
  refine ⟨fun _ => h, fun hf => ?_⟩
  rw [h] at hf
  cases hf

/-- Fault entry leaves a latch with its meaning when the record is true. -/
theorem latchMeaning_halted {s : State} {c : Fault} {info w : Word} (h : faultRecord (s.halted c info w)) :
    latchMeaning (s.halted c info w) := ⟨(fun hr => nomatch hr), fun _ => ⟨rfl, h⟩⟩

/-- The table of R103 reads the registers, I and SP only. -/
theorem faultOf_congr {s t : State} (hv : t.v = s.v) (hi : t.i = s.i) (hsp : t.sp = s.sp) (i : Instr) :
    faultOf t i = faultOf s i := by
  cases i <;> simp only [faultOf, memOobOf, State.getV, hv, hi, hsp]

/-- The latch keeps its meaning when nothing that its record speaks of changes. -/
theorem latchMeaning_congr {s t : State} (hlatch : t.latch = s.latch) (hpc : t.pc = s.pc) (hv : t.v = s.v)
    (hi : t.i = s.i) (hsp : t.sp = s.sp) (h : latchMeaning s) : latchMeaning t := by
  simpa only [latchMeaning, faultRecord, State.ready, faultOf_congr hv hi hsp, hlatch, hpc] using h

theorem latchMeaning_perform (tr : Transaction) (s t : State) (h : latchMeaning s) (hs : perform tr s = .next t) :
    latchMeaning t := by
  cases tr with
  | step =>
    obtain ⟨-, rfl⟩ | ⟨-, c, info, w, rfl, hrecord⟩ | ⟨hready, -, i, -, -, rfl⟩ := coreStep_inv hs
    · exact h
    · exact latchMeaning_halted hrecord
    · exact latchMeaning_of_clear ((completed_latch i s).trans (h.1 hready))
  | timerTick =>
    cases hs
    obtain e | ⟨-, e⟩ := timerTick_cases s <;> rw [e]
    · exact h
    · exact latchMeaning_congr rfl rfl rfl rfl rfl h
  | reset => cases hs; exact latchMeaning_of_clear rfl
  | hostWriteMem | hostSetKeys => cases hs; exact latchMeaning_congr rfl rfl rfl rfl rfl h

/-- Settles O23: fault entry writes a true record, and what a record speaks of stays until Reset clears it. -/
theorem stepKeepsLatchMeaning : Obligations.StepKeepsLatchMeaning :=
  fun _ _ h => step_of_perform (P := latchMeaning) (fun _ _ => latchMeaning_congr rfl rfl rfl rfl rfl)
    latchMeaning_perform h

/-- Settles O24: a clear latch is that of a ready core. -/
theorem resetLatchIsClear : Obligations.ResetLatchIsClear := ⟨rfl, rfl, latchMeaning_of_clear rfl⟩

/-! ### The halt -/

/-- A Step that halts a ready core changes nothing but the latch, whose `FAULT_PC` is PC (R104). -/
theorem coreStep_halts {s t : State} (hs : s.ready) (h : coreStep s = .next t) (ht : ¬ t.ready) :
    t = { s with latch := t.latch } ∧ t.latch.pc = s.pc := by
  obtain ⟨hf, rfl⟩ | ⟨-, c, info, w, rfl, -⟩ | ⟨-, -, i, -, -, rfl⟩ := coreStep_inv h
  · exact absurd hs ht
  · exact ⟨rfl, rfl⟩
  · exact absurd ((congrArg FaultLatch.faulted (completed_latch i s)).trans hs) ht

/-- No host transaction raises a fault (R103). -/
theorem eq_step_of_halts {tr : Transaction} {s t : State} (hs : s.ready) (h : perform tr s = .next t)
    (ht : ¬ t.ready) : tr = .step := by
  cases tr with
  | step => rfl
  | timerTick => cases h; exact absurd ((congrArg FaultLatch.faulted (timerTick_latch s)).trans hs) ht
  | reset => cases h; exact absurd rfl ht
  | hostWriteMem | hostSetKeys => cases h; exact absurd hs ht

/-- Settles O12: what halts a ready core is a Step, and a Step halts by fault entry. -/
theorem faultsArePrecise : Obligations.FaultsArePrecise := by
  intro s t hs h ht
  obtain ⟨ha, hc⟩ | ⟨tr, rest, ha, hp⟩ := step_inv h
  · obtain ⟨hframe, hpc⟩ := coreStep_halts hs hc ht
    exact ⟨.inl ha, fun _ => hframe, (fun rest ha' => nomatch ha.symm.trans ha'), hpc⟩
  · obtain rfl : tr = .step := eq_step_of_halts (s := { s with agenda := rest }) hs hp ht
    obtain ⟨hframe, hpc⟩ := coreStep_halts (s := { s with agenda := rest }) hs hp ht
    refine ⟨.inr ⟨rest, ha⟩, (fun ha' => nomatch ha.symm.trans ha'), fun rest' ha' => ?_, hpc⟩
    cases ha.symm.trans ha'
    exact hframe

end Sys2Proof.Machine

/-! SUPPORT. The host's transactions (10_state.md R34 to R39, 60_exceptions.md R106, R109, R112, 70_reset_and_hazards.md R119
to R122), each as a step that takes it off the agenda. -/

namespace Sys2Proof.Machine

/-! ### The frames of the host's transactions -/

theorem unchangedBut_dequeue (s : State) (rest : List Transaction) :
    unchangedBut [.agenda] s { s with agenda := rest } :=
  unchangedBut_of fun p => by cases p <;> simp [Part.same, State.readMem]

/-- What a transaction leaves alone, the step that performs it leaves alone, but for the agenda. -/
theorem unchangedBut.after_dequeue {l : List Part} {s t : State} {rest : List Transaction}
    (h : unchangedBut l { s with agenda := rest } t) : unchangedBut (l ++ [.agenda]) s t :=
  ((unchangedBut_dequeue s rest).mono (by simp)).trans (h.mono (by simp))

theorem unchangedBut_hostSetKeys (k16 : BitVec 16) (s : State) : unchangedBut [.keys] s (hostSetKeys k16 s) :=
  unchangedBut_of fun p => by cases p <;> simp [Part.same, hostSetKeys, State.readMem]

theorem unchangedBut_timers (s : State) (d t : Byte) : unchangedBut [.dt, .st] s { s with dt := d, st := t } :=
  unchangedBut_of fun p => by cases p <;> simp [Part.same, State.readMem]

theorem countDown_toNat (t : Byte) : (countDown t).toNat = t.toNat - 1 := by
  unfold countDown
  split
  · exact BitVec.toNat_sub_of_le (by simp [BitVec.le_def]; omega)
  · omega

/-! ### The statements -/

/-- Settles O13: the counted timers are the whole change. -/
theorem timerTickCountsBothDown : Obligations.TimerTickCountsBothDown := by
  intro s rest hs ha
  have ht : step s = .next { s with dt := countDown s.dt, st := countDown s.st, agenda := rest } :=
    (step_of_agenda_cons s _ rest ha).trans
      (congrArg Host.Outcome.next (timerTick_of_ready (s := { s with agenda := rest }) hs))
  exact ⟨_, ht, countDown_toNat s.dt, countDown_toNat s.st, rfl, rfl,
    (unchangedBut_timers { s with agenda := rest } _ _).after_dequeue⟩

/-- Settles O14: every 12-bit address is one of memory, and no status is asked for. -/
theorem hostWriteMemWritesOneByte : Obligations.HostWriteMemWritesOneByte := by
  intro s a b rest ha
  exact ⟨_, step_of_agenda_cons s _ rest ha,
    fun k => State.readMem_writeMem { s with agenda := rest } a.toNat k b a.isLt, rfl, rfl, (unchangedBut_writeMem { s with agenda := rest } a.toNat b).after_dequeue⟩

/-- Settles O15: the sixteen bits written are the flags. -/
theorem hostSetKeysWritesTheLatch : Obligations.HostSetKeysWritesTheLatch := by
  intro s k16 rest ha
  exact ⟨_, step_of_agenda_cons s _ rest ha, fun _ _ => rfl, rfl, rfl,
    (unchangedBut_hostSetKeys k16 { s with agenda := rest }).after_dequeue⟩

/-- Settles O9: a halted core answers a Step and a TimerTick with itself; the other transactions ask for no status. -/
theorem haltedCoreIsFrozenButForTheHost : Obligations.HaltedCoreIsFrozenButForTheHost := by
  intro s hf
  refine ⟨fun ha => ?_, fun rest ha => ?_, fun rest ha => ?_, fun a b rest ha => ?_, fun k rest ha => ?_,
    fun rest ha => ?_⟩
  · rw [step_of_agenda_nil s ha, coreStep_of_faulted hf]
  · rw [step_scheduled ha]
    exact coreStep_of_faulted (s := { s with agenda := rest }) hf
  · rw [step_of_agenda_cons s _ rest ha]
    exact congrArg _ (timerTick_of_faulted (s := { s with agenda := rest }) hf)
  · obtain ⟨t, ht, hread, -, hpc, hframe⟩ := hostWriteMemWritesOneByte s a b rest ha
    exact ⟨t, ht, (hread a.toNat).trans (if_pos rfl), hpc, hframe⟩
  · exact ⟨_, step_of_agenda_cons s _ rest ha, rfl, rfl,
      (unchangedBut_hostSetKeys k { s with agenda := rest }).after_dequeue⟩
  · exact ⟨_, step_of_agenda_cons s _ rest ha, rfl, rfl⟩

/-- A transaction other than Reset leaves a halted core's PC, and every piece but memory and the keys. -/
theorem perform_of_faulted {tr : Transaction} {s t : State} (hf : s.latch.faulted = true) (htr : tr ≠ .reset)
    (h : perform tr s = .next t) : t.pc = s.pc ∧ unchangedBut [.mem, .keys] s t := by
  cases tr with
  | step =>
    cases (coreStep_of_faulted hf).symm.trans h
    exact ⟨rfl, (unchangedBut_setPc _ s s.pc)⟩
  | timerTick =>
    cases h
    rw [timerTick_of_faulted hf]
    exact ⟨rfl, (unchangedBut_setPc _ s s.pc)⟩
  | reset => exact absurd rfl htr
  | hostWriteMem a b => cases h; exact ⟨rfl, (unchangedBut_writeMem s a.toNat b).mono (by simp)⟩
  | hostSetKeys k16 => cases h; exact ⟨rfl, (unchangedBut_hostSetKeys k16 s).mono (by simp)⟩

/-- Settles O25: the halted core's frame of each transaction but Reset. -/
theorem onlyResetEndsTheHalt : Obligations.OnlyResetEndsTheHalt := by
  intro s t hf hreset h
  obtain ⟨-, hc⟩ | ⟨tr, rest, ha, hp⟩ := step_inv h
  · obtain ⟨hpc, hframe⟩ := perform_of_faulted (tr := .step) hf (by simp) hc
    exact ⟨hpc, hframe.mono (by simp)⟩
  · have htr : tr ≠ .reset := fun e => hreset rest (e ▸ ha)
    obtain ⟨hpc, hframe⟩ := perform_of_faulted (s := { s with agenda := rest }) hf htr hp
    exact ⟨hpc, hframe.after_dequeue⟩

/-! ### Reset -/

/-- Memory in which nothing is listed, as after a Reset, reads as FONT at 0 to 79 and as 0 elsewhere (R119). -/
theorem background_of_lt (font : Vector Byte 80) {a : Nat} (h : a < 80) :
    Memory.background font a = font.toList.getD a 0#8 := by
  simp [Memory.background, h, List.getD_eq_getElem?_getD]

theorem background_of_le (font : Vector Byte 80) {a : Nat} (h : 80 ≤ a) : Memory.background font a = 0#8 :=
  dif_neg (Nat.not_lt.2 h)

theorem reset_getV (r : Nibble) : State.reset.getV r = 0#8 := Vector.getElem_replicate r.isLt

theorem reset_pixel (x y : Nat) : State.reset.pixel x y = false := BitVec.getLsbD_zero

theorem reset_keyDown (k : Nat) : State.reset.keyDown k = false := BitVec.getLsbD_zero

/-- Settles O16: Reset installs the reset state around the FONT, the draws and the agenda's rest. -/
theorem resetRestoresTheJustCreatedState : Obligations.ResetRestoresTheJustCreatedState := by
  intro s rest ha
  exact ⟨_, step_of_agenda_cons s _ rest ha, fun a h => background_of_lt s.font h, fun a h => background_of_le s.font h,
    reset_getV, reset_stack, fun k _ => reset_keyDown k, fun x _ y _ => reset_pixel x y,
    rfl, rfl, rfl, rfl, rfl, rfl, rfl, rfl, rfl, rfl, rfl, rfl, rfl, rfl⟩

/-- Settles O17: the same values, of the power-on state. -/
theorem powerOnStateIsTheResetState : Obligations.PowerOnStateIsTheResetState :=
  ⟨reset_getV, reset_stack, fun k _ => reset_keyDown k, fun x _ y _ => reset_pixel x y,
    fun _ h => background_of_lt _ h, fun _ h => background_of_le _ h, rfl, rfl, rfl, rfl, rfl, rfl, rfl⟩

/-! ### Loading a program -/

/-- A byte that a store has put there. -/
theorem readMem_storeBytes_of_lt {s : State} {a k : Nat} {bs : List Byte} (h : a + bs.length ≤ 4096)
    (hk : k < bs.length) : (s.storeBytes a bs).readMem (a + k) = bs[k] := by
  rw [State.readMem_storeBytes s a (a + k) bs h, dif_pos ⟨by omega, by omega⟩]
  simp

/-- A byte outside the addresses of a store. -/
theorem readMem_storeBytes_of_outside {s : State} {a k : Nat} {bs : List Byte} (h : a + bs.length ≤ 4096)
    (hk : k < a ∨ a + bs.length ≤ k) : (s.storeBytes a bs).readMem k = s.readMem k := by
  rw [State.readMem_storeBytes s a k bs h, dif_neg (by omega)]

/-- The host's writes of bytes at consecutive addresses. -/
def hostWrites (a : Nat) (bytes : List Byte) : List Transaction :=
  bytes.mapIdx (fun k b => .hostWriteMem (BitVec.ofNat 12 (a + k)) b)

theorem hostWrites_cons (a : Nat) (b : Byte) (bytes : List Byte) :
    hostWrites a (b :: bytes) = .hostWriteMem (BitVec.ofNat 12 a) b :: hostWrites (a + 1) bytes := by
  simp [hostWrites, List.mapIdx_cons, Nat.add_assoc, Nat.add_comm 1]

/-- One host write of an address inside memory, taken off the agenda. -/
theorem step_hostWrite {s : State} {a : Nat} {b : Byte} {rest : List Transaction} (ha : a < 4096) :
    step { s with agenda := .hostWriteMem (BitVec.ofNat 12 a) b :: rest } =
      .next { s.writeMem a b with agenda := rest } := by
  have haddr : (BitVec.ofNat 12 a).toNat = a := Nat.mod_eq_of_lt ha
  rw [step_of_agenda_cons _ _ rest rfl]
  show Host.Outcome.next (hostWriteMem (BitVec.ofNat 12 a) b { s with agenda := rest }) = _
  rw [hostWriteMem, haddr]
  rfl

theorem core_run_succ {s t : State} {n : Nat} (h : step s = .next t) :
    Host.Core.run core (n + 1) s = Host.Core.run core n t := run_succ_of_step core s t n h

/-- The writes of an image take as many steps as it has bytes, and store it. -/
theorem run_hostWrites (bytes : List Byte) (s : State) (a : Nat) (h : a + bytes.length ≤ 4096) :
    Host.Core.run core bytes.length { s with agenda := hostWrites a bytes } =
      .next { s.storeBytes a bytes with agenda := [] } := by
  induction bytes generalizing s a with
  | nil => rfl
  | cons b bytes ih =>
    rw [List.length_cons] at h
    rw [hostWrites_cons]
    exact (core_run_succ (step_hostWrite (by omega))).trans (ih (s.writeMem a b) (a + 1) (by omega))

/-- Settles O18: the run of the host's writes from reset stores the image at 0x200. -/
theorem loadedProgramEntryState : Obligations.LoadedProgramEntryState := by
  intro bytes himage
  have hlen : bytes.length ≤ 3584 := of_decide_eq_true himage
  have hin : 0x200 + bytes.length ≤ 4096 := by omega
  exact ⟨_, run_hostWrites bytes State.reset 0x200 hin, fun k hk => readMem_storeBytes_of_lt (s := State.reset) hin hk,
    fun a ha => readMem_storeBytes_of_outside (s := State.reset) hin ha, rfl,
    unchangedBut_storeBytes State.reset 0x200 bytes⟩

end Sys2Proof.Machine

/-! SUPPORT. Control flow and the arithmetic family, instruction by instruction (40_control.md R64 to R66 and R71, 41_alu.md R76
to R84). -/

namespace Sys2Proof.Machine

/-! ### The return, the jumps and the call -/

/-- Settles O32: with an entry held the pop is RET's whole effect after the fetch. -/
theorem retPopsOrUnderflows : Obligations.RetPopsOrUnderflows := by
  refine ⟨rfl, fun s => ⟨fun k hk => ?_, fun h => exec_of_fault (i := .ret) (if_pos h)⟩⟩
  have hfault : faultOf s .ret = none := if_neg (by omega)
  have hsp : s.fetched.popPc.sp.val = k.val := by rw [State.popPc_sp, State.fetched_sp, hk, Nat.add_sub_cancel]
  exact ⟨_, exec_of_noFault hfault, hsp, State.popPc_pc s.fetched k hk, unchangedBut_completed .ret s⟩

/-- Settles O33: JP's one write is to PC. -/
theorem jumpSetsPc : Obligations.JumpSetsPc :=
  fun nnn s => ⟨packAddr_eq_or 0x1#4 nnn, _, exec_of_noFault rfl, addrOperand_toNat nnn,
    unchangedBut_completed (.jp nnn) s⟩

/-- Settles O38: the sum of a byte and a 12-bit address fits PC. -/
theorem computedJumpAddsV0 : Obligations.ComputedJumpAddsV0 :=
  fun nnn s => ⟨packAddr_eq_or 0xB#4 nnn, _, exec_of_noFault rfl, jpV0_target_toNat (s.getV 0#4) nnn,
    unchangedBut_completed (.jpV0 nnn) s⟩

/-- Settles O34: with a free entry CALL pushes the fetched PC, and then jumps. -/
theorem callPushesOrOverflows : Obligations.CallPushesOrOverflows := by
  intro nnn s
  refine ⟨packAddr_eq_or 0x2#4 nnn, fun k hk => ?_, fun h => exec_of_fault (i := .call nnn) (if_pos h)⟩
  have hfault : faultOf s (.call nnn) = none := if_neg (by omega)
  have hstack : ∀ j : Fin 16,
      (completed (.call nnn) s).stack[j] = if s.sp.val = j.val then s.pc + 2#16 else s.stack[j] :=
    State.push_stack s.fetched (s.pc + 2#16)
  refine ⟨_, exec_of_noFault hfault, addrOperand_toNat nnn,
    State.push_sp s.fetched (s.pc + 2#16) (show s.sp.val < 16 by omega), ?_, fun j hj => ?_,
    unchangedBut_completed (.call nnn) s⟩
  · rw [hstack, if_pos hk]
    exact BitVec.toNat_add s.pc 2#16
  · rw [hstack, if_neg fun e => hj (Fin.ext (e.symm.trans hk))]

/-- Settles O35: the entry that RET pops is the one that CALL has pushed. -/
theorem returnResumesAfterTheCall : Obligations.ReturnResumesAfterTheCall := by
  intro nnn s hsp
  obtain ⟨-, hcall, -⟩ := callPushesOrOverflows nnn s
  obtain ⟨t, ht, -, htsp, hentry, -⟩ := hcall ⟨s.sp.val, hsp⟩ rfl
  refine ⟨t, ht, fun u hstack husp => ?_⟩
  obtain ⟨-, hret⟩ := retPopsOrUnderflows
  obtain ⟨q, hq, hqsp, hqpc, -⟩ := (hret u).1 ⟨s.sp.val, hsp⟩ (husp ▸ htsp)
  refine ⟨q, hq, ?_, Fin.ext hqsp⟩
  rw [hqpc, hstack, hentry]

/-- The `REG_REG` layout as its rules write it: family and sub-operation are one constant, and X and Y go between them. -/
theorem packRegReg_eq_base_or (d x y op : Nibble) :
    packRegReg d x y op =
      (BitVec.ofNat 16 (d.toNat * 4096) ||| op.setWidth 16) ||| x.setWidth 16 <<< 8 ||| y.setWidth 16 <<< 4 := by
  rw [packRegReg_eq_or]
  ac_rfl

/-! ### Logic and the random byte: one register write after the fetch -/

/-- What an instruction does, bit by bit, that writes one register after the fetch. -/
theorem registerWrite_bits {i : Instr} {s : State} {x : Nibble} {b : Byte} {f : Nat → Bool}
    (h : exec i s = .next (s.fetched.setV x b)) (hb : ∀ k, b.getLsbD k = f k) :
    ∃ t, exec i s = .next t ∧ (∀ k < 8, (t.getV x).getLsbD k = f k) ∧ registersUnchangedBut [x] s t ∧
      pcAdvanced s t ∧ unchangedBut [.v] s t := by
  obtain ⟨t, ht, hx, hframe⟩ := registerWrite_of_exec h
  exact ⟨t, ht, fun k _ => by rw [hx, hb], hframe⟩

/-- Settles O41: each result is a bitwise one. -/
theorem logicIsBitwiseWithoutFlag : Obligations.LogicIsBitwiseWithoutFlag := by
  intro x y s
  exact ⟨packRegReg_eq_base_or 0x8#4 x y 1#4, packRegReg_eq_base_or 0x8#4 x y 2#4, packRegReg_eq_base_or 0x8#4 x y 3#4,
    registerWrite_bits (exec_of_noFault rfl) fun _ => BitVec.getLsbD_or,
    registerWrite_bits (exec_of_noFault rfl) fun _ => BitVec.getLsbD_and,
    registerWrite_bits (exec_of_noFault rfl) fun _ => BitVec.getLsbD_xor⟩

/-- Settles O45: the byte drawn is the queue's first, or the free one of its number. -/
theorem randomIsAnyByteMasked : Obligations.RandomIsAnyByteMasked := by
  intro x nn s
  have hx : (completed (.rnd x nn) s).getV x = s.draw &&& nn := State.getV_setV_self _ x _
  refine ⟨packRegImm_eq_or 0xC#4 x nn, _, exec_of_noFault rfl, fun b rest hq => ⟨?_, fun k _ => ?_⟩,
    fun hq => ⟨?_, fun k _ => ?_⟩, rfl, fun r hr => ?_, pcAdvanced_fetched s, unchangedBut_completed (.rnd x nn) s⟩
  · exact congrArg List.tail hq
  · rw [hx, State.draw_cons s b rest hq, BitVec.getLsbD_and]
  · exact congrArg List.tail hq
  · rw [hx, State.draw_nil s hq, BitVec.getLsbD_and]
  · exact getV_completed (i := .rnd x nn) (List.ne_of_not_mem_cons hr)

/-! ### Arithmetic with a flag -/

theorem flagByte_toNat (f : Bool) : (flagByte f).toNat = if f = true then 1 else 0 := by cases f <;> rfl

theorem carryOut_toNat (a b : Byte) : (flagByte (carryOut a b)).toNat = if a.toNat + b.toNat ≥ 256 then 1 else 0 := by
  simp only [flagByte_toNat, carryOut, decide_eq_true_eq]

theorem notBorrow_toNat (a b : Byte) : (flagByte (notBorrow a b)).toNat = if a.toNat ≥ b.toNat then 1 else 0 := by
  simp only [flagByte_toNat, notBorrow, decide_eq_true_eq]

/-- The difference of two bytes wraps modulo 256. -/
theorem sub_toNat_int (a b : Byte) : ((a - b).toNat : Int) = ((a.toNat : Int) - b.toNat) % 256 := by
  have ha := a.isLt
  have hb := b.isLt
  rw [BitVec.toNat_sub]
  omega

/-- A bit of a byte as a flag is that bit of its value. -/
theorem flagByte_getLsbD_toNat (a : Byte) (k : Nat) : (flagByte (a.getLsbD k)).toNat = a.toNat / 2 ^ k % 2 := by
  simp only [flagByte_toNat, BitVec.getLsbD, Nat.testBit_eq_decide_div_mod_eq, decide_eq_true_eq]
  split <;> omega

/-- What an instruction does that writes a result and its flag after the fetch: VF ends holding the flag, and the
destination the result where it is not VF (R16, D9). -/
theorem flagWrite_of_exec {i : Instr} {s : State} {x : Nibble} {r : Byte} {f : Bool}
    (h : exec i s = .next (s.fetched.setVAndFlag x r f)) :
    ∃ t, exec i s = .next t ∧ t.getV 0xF#4 = flagByte f ∧ (x ≠ 0xF#4 → t.getV x = r) ∧
      registersUnchangedBut [x, 0xF#4] s t ∧ pcAdvanced s t ∧ unchangedBut [.v] s t := by
  refine ⟨_, h, State.getV_setVF_flag _ f, fun hx => ?_, fun q hq => ?_, pcAdvanced_fetched s,
    (unchangedBut_setVAndFlag s.fetched x r f).after_fetch⟩
  · rw [State.getV_setVAndFlag, if_neg hx, if_pos rfl]
  · obtain ⟨hx, hF⟩ : q ≠ x ∧ q ≠ 0xF#4 := by simpa using hq
    rw [State.getV_setVAndFlag, if_neg hF, if_neg hx, State.getV_fetched]

/-- Settles O42: the result is the sum of two bytes and the flag its carry. -/
theorem addRegistersWithCarry : Obligations.AddRegistersWithCarry := by
  intro x y s
  obtain ⟨t, ht, hF, hx, hframe⟩ := flagWrite_of_exec (exec_of_noFault (i := .addReg x y) (s := s) rfl)
  refine ⟨packRegReg_eq_base_or 0x8#4 x y 4#4, t, ht, ?_, fun hne => ?_, hframe⟩
  · rw [hF, carryOut_toNat]
  · rw [hx hne, BitVec.toNat_add]

/-- What a subtraction into `V[x]` with its flag does: the difference modulo 256, and NOT borrow. -/
theorem subtract_of_exec {i : Instr} {s : State} {x : Nibble} {a b : Byte}
    (h : exec i s = .next (s.fetched.setVAndFlag x (a - b) (notBorrow a b))) :
    ∃ t, exec i s = .next t ∧ (t.getV 0xF#4).toNat = (if a.toNat ≥ b.toNat then 1 else 0) ∧
      (x ≠ 0xF#4 → ((t.getV x).toNat : Int) = ((a.toNat : Int) - b.toNat) % 256) ∧
      registersUnchangedBut [x, 0xF#4] s t ∧ pcAdvanced s t ∧ unchangedBut [.v] s t := by
  obtain ⟨t, ht, hF, hx, hframe⟩ := flagWrite_of_exec h
  refine ⟨t, ht, ?_, fun hne => ?_, hframe⟩
  · rw [hF, notBorrow_toNat]
  · rw [hx hne, sub_toNat_int]

/-- Settles O43: SUB and SUBN are one subtraction with the operands in either order. -/
theorem subtractWithNotBorrow : Obligations.SubtractWithNotBorrow := by
  intro x y s
  exact ⟨packRegReg_eq_base_or 0x8#4 x y 5#4, packRegReg_eq_base_or 0x8#4 x y 7#4,
    subtract_of_exec (exec_of_noFault rfl), subtract_of_exec (exec_of_noFault rfl)⟩

/-- Settles O44: the flag is bit 0 or bit 7 of `V[x]`, and nothing reads `V[y]`. -/
theorem shiftsInPlaceIgnoreY : Obligations.ShiftsInPlaceIgnoreY := by
  intro x y s
  have hlt := (s.getV x).isLt
  refine ⟨packRegReg_eq_base_or 0x8#4 x y 6#4, packRegReg_eq_base_or 0x8#4 x y 0xE#4, ?_, ?_⟩
  · obtain ⟨t, ht, hF, hx, hframe⟩ := flagWrite_of_exec (exec_of_noFault (i := .shr x y) (s := s) rfl)
    refine ⟨t, ht, ?_, fun hne => ?_, hframe⟩
    · rw [hF, shrOut, flagByte_getLsbD_toNat]
      omega
    · rw [hx hne, BitVec.toNat_ushiftRight, Nat.shiftRight_eq_div_pow]
  · obtain ⟨t, ht, hF, hx, hframe⟩ := flagWrite_of_exec (exec_of_noFault (i := .shl x y) (s := s) rfl)
    refine ⟨t, ht, ?_, fun hne => ?_, hframe⟩
    · rw [hF, shlOut, flagByte_getLsbD_toNat]
      omega
    · rw [hx hne, BitVec.toNat_shiftLeft, Nat.shiftLeft_eq, Nat.mul_comm]

end Sys2Proof.Machine

/-! SUPPORT. The address register, memory and the key skips, instruction by instruction (42_index_memory.md R86 to R91,
20_memory.md R45 to R52, 44_keys_timers.md R96 and R97). -/

namespace Sys2Proof.Machine

/-! ### The address register -/

/-- Settles O46: both write I alone; the byte added is zero-extended. -/
theorem indexLoadAndAdd : Obligations.IndexLoadAndAdd := by
  intro nnn x s
  refine ⟨packAddr_eq_or 0xA#4 nnn, packRegImm_eq_base_or 0xF#4 x 0x1E#8, ?_, ?_⟩
  · exact ⟨_, exec_of_noFault rfl, addrOperand_toNat nnn, pcAdvanced_fetched s, unchangedBut_completed (.ldI nnn) s⟩
  · have hsum : (s.i + byteOperand (s.getV x)).toNat = (s.i.toNat + (s.getV x).toNat) % 65536 := by
      rw [BitVec.toNat_add, byteOperand_toNat]
    exact ⟨_, exec_of_noFault rfl, hsum, pcAdvanced_fetched s, unchangedBut_completed (.addI x) s⟩

/-- Settles O47: five times a digit fits I, and a byte above 15 is no digit. -/
theorem fontAddressOrFault : Obligations.FontAddressOrFault := by
  intro x s
  refine ⟨packRegImm_eq_base_or 0xF#4 x 0x29#8, fun h => ?_, fun h => exec_of_fault (i := .ldF x) (above15Of_of_lt _ h)⟩
  have hfault : faultOf s (.ldF x) = none := (above15Of_eq_none_iff _ _).2 h
  have haddr : (BitVec.ofNat 16 (5 * (s.getV x).toNat)).toNat = 5 * (s.getV x).toNat := Nat.mod_eq_of_lt (by omega)
  exact ⟨_, exec_of_noFault hfault, haddr, pcAdvanced_fetched s, unchangedBut_completed (.ldF x) s⟩

/-! ### Stores and loads from I on -/

/-- Settles O29: a write is seen at its address and nowhere else. -/
theorem readGivesTheLatestWrite : Obligations.ReadGivesTheLatestWrite :=
  fun s a b ha k => State.readMem_writeMem s a k b ha

/-- A decimal digit, like any number below 256, fits a byte. -/
theorem bcdDigit_toNat {n : Nat} (h : n < 256) : (BitVec.ofNat 8 n).toNat = n := Nat.mod_eq_of_lt h

/-- Settles O48: the three digits are stored one after the other, and the access is checked for all three. -/
theorem bcdStoresThreeDigits : Obligations.BcdStoresThreeDigits := by
  intro x s
  have hv := (s.getV x).isLt
  refine ⟨packRegImm_eq_base_or 0xF#4 x 0x33#8, fun h => ?_,
    fun h => exec_of_fault (i := .ldB x) (memOobOf_of_outside (by omega) h)⟩
  have hin : s.i.toNat + (bcdDigits (s.getV x)).length ≤ 4096 := show s.i.toNat + 3 ≤ 4096 by omega
  have hfault : faultOf s (.ldB x) = none := (memOobOf_eq_none_iff s 3).2 (.inr hin)
  have hdigit : ∀ k, (hk : k < 3) → (completed (.ldB x) s).readMem (s.i.toNat + k) = (bcdDigits (s.getV x))[k] :=
    fun k hk => readMem_storeBytes_of_lt (s := s.fetched) hin hk
  refine ⟨_, exec_of_noFault hfault, ?_, ?_, ?_, fun a ha => ?_, pcAdvanced_fetched s, unchangedBut_completed (.ldB x) s⟩
  · rw [← Nat.add_zero s.i.toNat, hdigit 0 (by decide)]
    exact bcdDigit_toNat (by omega)
  · rw [hdigit 1 (by decide)]
    exact bcdDigit_toNat (by omega)
  · rw [hdigit 2 (by decide)]
    exact bcdDigit_toNat (by omega)
  · exact readMem_storeBytes_of_outside (s := s.fetched) hin (by rw [bcdDigits_length]; omega)

/-- Settles O49: the first registers are stored one after the other, and the access is checked for all of them. -/
theorem registerSave : Obligations.RegisterSave := by
  intro x s
  refine ⟨packRegImm_eq_base_or 0xF#4 x 0x55#8, fun h => ?_,
    fun h => exec_of_fault (i := .storeRegs x) (memOobOf_of_outside (by omega) h)⟩
  have hlen : (s.firstV (x.toNat + 1)).length = x.toNat + 1 := State.firstV_length s _ x.isLt
  have hin : s.i.toNat + (s.firstV (x.toNat + 1)).length ≤ 4096 := by omega
  have hfault : faultOf s (.storeRegs x) = none := (memOobOf_eq_none_iff s _).2 (.inr (by omega))
  refine ⟨_, exec_of_noFault hfault, fun r hr => ?_, fun a ha => ?_, pcAdvanced_fetched s,
    unchangedBut_completed (.storeRegs x) s⟩
  · have hr' : r.toNat < (s.firstV (x.toNat + 1)).length := by omega
    exact (readMem_storeBytes_of_lt (s := s.fetched) hin hr').trans (State.firstV_getElem s _ r hr')
  · exact readMem_storeBytes_of_outside (s := s.fetched) hin (by omega)

/-- Settles O30: the fetch reads two of the bytes that the save has stored. -/
theorem storedWordIsTheWordFetched : Obligations.StoredWordIsTheWordFetched := by
  intro x k k' s hin hk' hx
  obtain ⟨-, hsave, -⟩ := registerSave x s
  obtain ⟨t, ht, hstored, -⟩ := hsave hin
  refine ⟨t, ht, fun u hmem hfont hpc => ?_⟩
  have hread : ∀ a, u.readMem a = t.readMem a := fun a => by simp only [State.readMem, hmem, hfont]
  have hlow : s.i.toNat + k.toNat + 1 = s.i.toNat + k'.toNat := by omega
  unfold State.fetchWord wordOfBytes
  rw [hpc, hlow, hread, hread, hstored k (by omega), hstored k' hx]

/-- Settles O50: the first registers are loaded, memory being read only. -/
theorem registerLoad : Obligations.RegisterLoad := by
  intro x s
  refine ⟨packRegImm_eq_base_or 0xF#4 x 0x65#8, fun h => ?_,
    fun h => exec_of_fault (i := .loadRegs x) (memOobOf_of_outside (by omega) h)⟩
  have hfault : faultOf s (.loadRegs x) = none := (memOobOf_eq_none_iff s _).2 (.inr (by omega))
  refine ⟨_, exec_of_noFault hfault, fun r => ?_, pcAdvanced_fetched s, unchangedBut_completed (.loadRegs x) s⟩
  have hloaded := State.getV_loadV s.fetched s.i.toNat (x.toNat + 1) r
  simp only [Nat.lt_succ_iff] at hloaded
  exact hloaded

/-! ### The key skips -/

/-- Settles O54: a register of at most 15 names a key, whose flag decides the skip. -/
theorem keySkips : Obligations.KeySkips := by
  intro x s
  refine ⟨packRegImm_eq_base_or 0xE#4 x 0x9E#8, packRegImm_eq_base_or 0xE#4 x 0xA1#8, fun h => ⟨?_, ?_⟩,
    fun h => ⟨?_, ?_⟩⟩
  · have hfault : faultOf s (.skp x) = none := (above15Of_eq_none_iff _ _).2 h
    exact ⟨_, exec_of_noFault hfault, State.skipIf_fetched_pc s _, unchangedBut_completed (.skp x) s⟩
  · have hfault : faultOf s (.sknp x) = none := (above15Of_eq_none_iff _ _).2 h
    refine ⟨_, exec_of_noFault hfault, (State.skipIf_fetched_pc s _).trans ?_, unchangedBut_completed (.sknp x) s⟩
    unfold State.keyDown
    cases s.keys.getLsbD (s.getV x).toNat <;> rfl
  · exact exec_of_fault (i := .skp x) (above15Of_of_lt _ h)
  · exact exec_of_fault (i := .sknp x) (above15Of_of_lt _ h)

end Sys2Proof.Machine

/-! SUPPORT. DXYN (43_display.md R93 to R95): the pixels that a draw toggles, its collision, and two draws of one sprite. -/

namespace Sys2Proof.Machine

/-! ### The pixels of a draw and its collision -/

/-- The flat indexes of the pixels that DXYN's sprite falls on in a state. -/
def State.drawHits (s : State) (x y n : Nibble) : List Nat :=
  spriteHits (s.getV x) (s.getV y) (fun r => s.readMem (s.i.toNat + r)) n.toNat

theorem mem_drawHits_iff (s : State) (x y n : Nibble) {px py : Nat} (hx : px < 64) :
    pixelIndex px py ∈ s.drawHits x y n ↔ spriteCovers s x y n px py := by
  unfold State.drawHits spriteCovers
  simp only [mem_spriteHits, pixelIndex_inj hx (Nat.mod_lt _ (by decide : 64 > 0))]

/-- DXYN turns over the pixels its sprite falls on and leaves the others. -/
theorem completed_drw_disp (s : State) (x y n : Nibble) (q : Nat) :
    (completed (.drw x y n) s).disp.getLsbD q = (s.disp.getLsbD q ^^ decide (q ∈ s.drawHits x y n)) :=
  Canvas.drawSprite_disp _ _ _ _ (show n.toNat ≤ 32 by omega) ⟨s.disp, false⟩ q

/-- VF after DXYN says whether one of the sprite's pixels was on. -/
theorem completed_drw_vf (s : State) (x y n : Nibble) :
    (completed (.drw x y n) s).getV 0xF#4 = flagByte ((s.drawHits x y n).any s.disp.getLsbD) := by
  have hcollision : (s.drawnCanvas x y n).collision = (s.drawHits x y n).any s.disp.getLsbD :=
    (Canvas.drawSprite_collision _ _ _ _ (show n.toNat ≤ 32 by omega) ⟨s.disp, false⟩).trans (Bool.false_or _)
  rw [← hcollision]
  exact State.getV_setVF_flag _ _

theorem faultOf_drw_eq_none_iff (s : State) (x y n : Nibble) :
    faultOf s (.drw x y n) = none ↔ n.toNat = 0 ∨ s.i.toNat + n.toNat ≤ 4096 := memOobOf_eq_none_iff s n.toNat

theorem flagByte_eq_one_iff (f : Bool) : flagByte f = 1#8 ↔ f = true := by cases f <;> decide

theorem flagByte_eq_zero_iff (f : Bool) : flagByte f = 0#8 ↔ f = false := by cases f <;> decide

/-- Every pixel a sprite falls on is one of the screen's, in some column and row that the sprite covers. -/
theorem exists_covers_of_mem_drawHits {s : State} {x y n : Nibble} {q : Nat} (h : q ∈ s.drawHits x y n) :
    ∃ px < 64, ∃ py < 32, spriteCovers s x y n px py ∧ q = pixelIndex px py := by
  obtain ⟨r, c, hr, hc, hbit, rfl⟩ := (mem_spriteHits _ _ _ _ _).1 h
  exact ⟨_, Nat.mod_lt _ (by decide), _, Nat.mod_lt _ (by decide), ⟨r, c, hr, hc, hbit, rfl, rfl⟩, rfl⟩

/-- Settles O52: a covered pixel is one of those toggled, and the flag asks whether one of them was on. -/
theorem drawTogglesTheSprite : Obligations.DrawTogglesTheSprite := by
  intro x y n s
  refine ⟨packRegReg_eq_or 0xD#4 x y n, fun h => ?_,
    fun hn h => exec_of_fault (i := .drw x y n) (memOobOf_of_outside hn h)⟩
  have hfault : faultOf s (.drw x y n) = none := (faultOf_drw_eq_none_iff s x y n).2 (by omega)
  refine ⟨_, exec_of_noFault hfault, fun px hx py _ => ⟨fun hcov => ?_, fun hcov => ?_⟩, ?_, fun hoff => ?_,
    fun r hr => getV_completed (i := .drw x y n) (List.ne_of_not_mem_cons hr), pcAdvanced_fetched s,
    unchangedBut_completed (.drw x y n) s⟩
  · unfold State.pixel
    rw [completed_drw_disp, decide_eq_true ((mem_drawHits_iff s x y n hx).2 hcov), Bool.xor_true]
  · unfold State.pixel
    rw [completed_drw_disp, decide_eq_false fun h => hcov ((mem_drawHits_iff s x y n hx).1 h), Bool.xor_false]
  · rintro ⟨px, hx, py, -, hcov, hon⟩
    rw [completed_drw_vf, flagByte_eq_one_iff, List.any_eq_true]
    exact ⟨_, (mem_drawHits_iff s x y n hx).2 hcov, hon⟩
  · rw [completed_drw_vf, flagByte_eq_zero_iff, List.any_eq_false]
    intro q hq
    obtain ⟨px, hx, py, hy, hcov, rfl⟩ := exists_covers_of_mem_drawHits hq
    exact Bool.eq_false_iff.1 (hoff px hx py hy hcov)

/-! ### Two draws of one sprite -/

/-- A draw that does not read VF is repeated by the state it leaves: the same sprite on the same pixels. -/
theorem drawHits_completed_drw {s : State} {x y : Nibble} (n : Nibble) (hx : x ≠ 0xF#4) (hy : y ≠ 0xF#4) :
    (completed (.drw x y n) s).drawHits x y n = s.drawHits x y n := by
  have hgetX : (completed (.drw x y n) s).getV x = s.getV x := getV_completed (i := .drw x y n) hx
  have hgetY : (completed (.drw x y n) s).getV y = s.getV y := getV_completed (i := .drw x y n) hy
  unfold State.drawHits
  rw [hgetX, hgetY]
  rfl

/-- Two draws of one sprite restore the display. -/
theorem completed_drw_twice_disp {s : State} {x y : Nibble} (n : Nibble) (hx : x ≠ 0xF#4) (hy : y ≠ 0xF#4) :
    (completed (.drw x y n) (completed (.drw x y n) s)).disp = s.disp := by
  refine BitVec.eq_of_getLsbD_eq fun q _ => ?_
  rw [completed_drw_disp, completed_drw_disp, drawHits_completed_drw n hx hy, Bool.xor_assoc, Bool.xor_self,
    Bool.xor_false]

theorem byte_ne_zero_iff (b : Byte) : b ≠ 0#8 ↔ ∃ c < 8, b.getLsbD (7 - c) = true := by
  constructor
  · intro hb
    by_contra hoff
    refine hb (BitVec.eq_of_getLsbD_eq fun k hk => ?_)
    rw [BitVec.getLsbD_zero, ← Bool.not_eq_true]
    intro hon
    exact hoff ⟨7 - k, by omega, by rwa [show 7 - (7 - k) = k by omega]⟩
  · rintro ⟨c, -, hbit⟩ rfl
    rw [BitVec.getLsbD_zero] at hbit
    cases hbit

/-- A sprite falls on some pixel exactly when one of its bytes has a set bit. -/
theorem exists_mem_drawHits_iff (s : State) (x y n : Nibble) :
    (∃ q, q ∈ s.drawHits x y n) ↔ ∃ r < n.toNat, s.readMem (s.i.toNat + r) ≠ 0#8 := by
  simp only [State.drawHits, mem_spriteHits, byte_ne_zero_iff]
  constructor
  · rintro ⟨q, r, c, hr, hc, hbit, -⟩
    exact ⟨r, hr, c, hc, hbit⟩
  · rintro ⟨r, hr, c, hc, hbit⟩
    exact ⟨_, r, c, hr, hc, hbit, rfl⟩

/-- Settles O53: on a clear display the first draw turns on just the sprite's pixels, so the second meets each of them. -/
theorem drawingTwiceRestoresTheDisplay : Obligations.DrawingTwiceRestoresTheDisplay := by
  intro x y n s hx hy hin hclear
  have hfirst : faultOf s (.drw x y n) = none := (faultOf_drw_eq_none_iff s x y n).2 (.inr hin)
  have hsecond : faultOf (completed (.drw x y n) s) (.drw x y n) = none :=
    (faultOf_drw_eq_none_iff (completed (.drw x y n) s) x y n).2 (.inr hin)
  have hoff : ∀ q, s.disp.getLsbD q = false := fun q => by rw [hclear, BitVec.getLsbD_zero]
  refine ⟨_, _, exec_of_noFault hfirst, exec_of_noFault hsecond, completed_drw_twice_disp n hx hy, ?_, ?_⟩
  · rw [completed_drw_vf, flagByte_eq_zero_iff, List.any_eq_false]
    exact fun q _ => Bool.eq_false_iff.1 (hoff q)
  · rw [completed_drw_vf, flagByte_eq_one_iff, drawHits_completed_drw n hx hy, List.any_eq_true,
      ← exists_mem_drawHits_iff s x y n]
    refine exists_congr fun q => and_iff_left_of_imp fun hq => ?_
    rw [completed_drw_disp, hoff, decide_eq_true hq, Bool.false_xor]

end Sys2Proof.Machine
